-- ==== Sys2Proof/Word.lean ====
section
/-! DEFINITION. The words of the block: the 25-bit grid (R22), the 2-bit command select (R25), and the packed
command and result words (R63, R64). All are unsigned bit vectors (R8). -/

namespace Sys2Proof

/-- A grid `g[24:0]` (R22); each of its 2^25 values is legal (R23). -/
abbrev Grid := BitVec 25

/-- The command select `op[1:0]` (R25). -/
abbrev OpBits := BitVec 2

/-- The packed inputs `W = {rand_in, grid_in, op}` of one evaluation (R63). -/
abbrev CommandWord := BitVec 52

/-- The packed outputs `Y = {done, grid_out}` of one evaluation (R64). -/
abbrev ResultWord := BitVec 26

end Sys2Proof
end

