-- ==== Sys2Proof/Syntax.lean ====
section
/-! DEFINITION. The commands of the set CL5K-1 (R3, R61), one constructor per row of the opcode table, the inputs of one
evaluation with the command decoded (R60, R63), and the assembler's lines (R67). -/

namespace Sys2Proof

/-- The four values of the command select (R34, R61). A command has no operand field of its own: its operands are the
values on the ports `grid_in` and `rand_in` during the same evaluation (R60, R65). -/
inductive Instr where
  /-- `op = 0b00`: one generation (R90). -/
  | advance
  /-- `op = 0b01`: every cell inverted (R87). -/
  | complement
  /-- `op = 0b10`: the random bits become the grid (R85). -/
  | fill
  /-- `op = 0b11`: the one reserved encoding (R62, R121). -/
  | reserved3
  deriving DecidableEq, Repr

/-- The inputs of one evaluation with the command decoded: what a command word `W` holds (R63). -/
structure Command where
  instr : Instr
  gridIn : Grid
  randIn : Grid
  deriving DecidableEq, Repr

/-- The assembler's lines (R67). The reserved encoding has no mnemonic and is written with `.word`. -/
inductive AsmLine where
  | advance (g : Grid)
  | complement (g : Grid)
  | fill (g r : Grid)
  | word (w : CommandWord)
  deriving DecidableEq, Repr

end Sys2Proof
end

