-- ==== Sys2Proof/WellFormed.lean ====
section
/-! DEFINITION. What a well-formed instruction and a well-formed command word are. No operand value is ill formed (R23);
the checks are that the encoding is an assigned one (R62) and that the word is no wider than 52 bits (R63). -/

namespace Sys2Proof

/-- `i` is one of the three commands R61 assigns, the ones a host may drive (R144, R159). DESIGN CHOICE (log entry 13). -/
def Instr.wellFormed : Instr → Bool
  | .advance => true
  | .complement => true
  | .fill => true
  | .reserved3 => false

/-- A command is well formed when its instruction is: its operands always are (R23, R65). -/
def Command.wellFormed (c : Command) : Bool := c.instr.wellFormed

/-- The number `w` is a command word: it has at most 52 bits (R63). -/
def commandWordInRange (w : Nat) : Bool := decide (w < 2 ^ 52)

end Sys2Proof
end

