-- ==== Sys2Proof/Decode.lean ====
section
/-! DEFINITION. The decoder and the encoder: the command select (R61, R62), the packed command and result words (R63, R64,
R69) and the assembler (R67). -/

namespace Sys2Proof

/-- Why a number is no command word. -/
inductive DecodeError where
  /-- Raised by `decodeWord`: `w` has more than 52 bits (R63). Safe: no evaluation has such inputs (log entry 4). -/
  | wordTooWide (w : Nat)
  deriving DecidableEq, Repr

/-- The command of an `op` value (R61); total, as R62 says. -/
def decodeOp (op : OpBits) : Instr :=
  if op = 0b00#2 then .advance
  else if op = 0b01#2 then .complement
  else if op = 0b10#2 then .fill
  else .reserved3

/-- The command of a command word, and its operand fields (R63, R69). -/
def unpackCommand (w : CommandWord) : Command where
  instr := decodeOp (w.extractLsb' 0 2)
  gridIn := w.extractLsb' 2 25
  randIn := w.extractLsb' 27 25

/-- The command of a number: total, and rejecting by name what is no command word. DESIGN CHOICE (log entry 4). -/
def decodeWord (w : Nat) : Except DecodeError Command :=
  if commandWordInRange w then .ok (unpackCommand (BitVec.ofNat 52 w)) else .error (.wordTooWide w)

/-- The low `nbits` bits of a table word; every bit above them is 0 (log entry 4). -/
def tableBits (nbits w : Nat) : Nat := w % 2 ^ nbits

/-- The instruction the decoder reads from a table word, whose bit 0 is the least significant bit of `W` (R63). -/
def decodeTableWord (nbits w : Nat) : Option Instr :=
  match decodeWord (tableBits nbits w) with
  | .ok c => some c.instr
  | .error _ => none

/-- The `op` value of a command (R61). -/
def encodeOp : Instr → OpBits
  | .advance => 0b00#2
  | .complement => 0b01#2
  | .fill => 0b10#2
  | .reserved3 => 0b11#2

/-- `W = {rand_in, grid_in, op}` (R63). -/
def packCommand (c : Command) : CommandWord := c.randIn ++ c.gridIn ++ encodeOp c.instr

/-- `Y = {done, grid_out}` (R64). -/
def packResult (gridOut : Grid) (done : Bool) : ResultWord := BitVec.ofBool done ++ gridOut

/-- The command word an assembler line stands for (R67): `ADVANCE` and `COMPLEMENT` drive `rand_in = 0`. -/
def assemble : AsmLine → CommandWord
  | .advance g => packCommand ⟨.advance, g, 0#25⟩
  | .complement g => packCommand ⟨.complement, g, 0#25⟩
  | .fill g r => packCommand ⟨.fill, g, r⟩
  | .word w => w

end Sys2Proof
end

