-- ==== Sys2Proof/Machine/State.lean ====
section
/-! DEFINITION. The state of the machine: the five ports of R21. The block stores nothing (R20, R29 to R32), so the ports
are all that a run can show (R141). DESIGN CHOICE: that State holds the ports (log entry 3). -/

namespace Sys2Proof.Machine

/-- The ports (R21). The inputs are as the host presents them, two-valued (R151; log entry 7), and the outputs as sampled
at the end of the last evaluation (R146). -/
structure State where
  /-- `op[1:0]`, input: the command select (R25). -/
  op : OpBits
  /-- `grid_in[24:0]`, input: the current grid (R22, R23). -/
  gridIn : Grid
  /-- `rand_in[24:0]`, input: the host's random bits, read by `FILL` only (R26). -/
  randIn : Grid
  /-- `grid_out[24:0]`, output: the result grid (R27). -/
  gridOut : Grid
  /-- `done`, output: the one status flag, 1 iff `grid_in` is all dead (R28, R89). -/
  done : Bool
  deriving DecidableEq, Repr

/-- The faults of the machine: none. The block raises no exception and has no fault state (R120), so nothing raises one.
Safe: the spec gives every evaluation a result or the refusal of R121. -/
inductive Fault where
  deriving DecidableEq, Repr

/-- Why a step gives no next state. -/
inductive Refusal where
  /-- Raised by an arm of `exec` whose instruction has no meaning yet; no arm is left so. Safe: it stops. -/
  | notModelled (mnemonic : String)
  /-- `Refused(reserved_op, op)`, raised by `RESERVED3` (R96, R121). Safe: the hardware goes on with an unspecified
  `grid_out`, and the model stops, as R121 says a model does (log entry 5). -/
  | reservedOp (op : OpBits)
  deriving DecidableEq, Repr

/-- The ports at power-up once settled (R142); the block has no reset (R140). DESIGN CHOICE: the three inputs (log
entry 1). DEDUCED: the two outputs, which are R96 and R89 applied to those inputs (R141; log entry 2). -/
def State.reset : State where
  op := 0b00#2
  gridIn := 0x0000000#25
  randIn := 0x0000000#25
  gridOut := 0x0000000#25
  done := true

end Sys2Proof.Machine
end

