-- ==== Sys2Proof/Machine/Operands.lean ====
section
/-! DEFINITION. The operand forms: the two grid operands (R65) and the cells of a grid, with the map between a cell's
coordinates and its bit (R9, R22). -/

namespace Sys2Proof.Machine

/-- The grid operand of `ADVANCE`, of `COMPLEMENT` and of `done` (R65). -/
def gridOperand (s : State) : Grid := s.gridIn

/-- The operand of `FILL` (R65). -/
def randOperand (s : State) : Grid := s.randIn

/-- The bit index of cell `(r, c)` (R22). -/
def bitIndex (r c : Nat) : Nat := 5 * r + c

/-- The row of the cell with bit index `i` (R22). -/
def rowOf (i : Nat) : Nat := i / 5

/-- The column of the cell with bit index `i` (R22). -/
def colOf (i : Nat) : Nat := i % 5

/-- `(r, c)` lies inside the grid (R9). -/
def inGrid (r c : Int) : Bool := decide (0 ≤ r) && decide (r ≤ 4) && decide (0 ≤ c) && decide (c ≤ 4)

/-- The state of the cell with bit index `i`: `true` alive, `false` dead (R22, R24). -/
def cellBit (g : Grid) (i : Nat) : Bool := g.getLsbD i

/-- `cell(g, r, c)` (R9, R22). -/
def cell (g : Grid) (r c : Nat) : Bool := cellBit g (bitIndex r c)

/-- Row `r` as the 5-bit slice `g[5r+4 : 5r]`, column 0 in bit 0 (R22). -/
def rowSlice (g : Grid) (r : Nat) : BitVec 5 := g.extractLsb' (5 * r) 5

/-- The `n`-bit vector whose bit `i` is `f i`: the pseudocode's `for i in 0..n-1`, every body reading `f` alone (R10). -/
def ofBits : (n : Nat) → (Nat → Bool) → BitVec n
  | 0, _ => 0#0
  | n + 1, f => BitVec.cons (f n) (ofBits n f)

/-- The grid whose cell `i` is `f i` for each `i` in 0..24 (R10, R84). -/
def gridOf (f : Nat → Bool) : Grid := ofBits 25 f

end Sys2Proof.Machine
end

