-- ==== Sys2Proof/Machine/Flags.lean ====
section
/-! DEFINITION. The one flag, `done` (R28). -/

namespace Sys2Proof.Machine

/-- The all-dead predicate `is_done`: the NOR of the 25 bits of the grid (R89). -/
def doneFlag (g : Grid) : Bool := g == 0#25

end Sys2Proof.Machine
end

