-- ==== Sys2Proof/Machine/Ops.lean ====
section
/-! DEFINITION. The operations over the ports: presenting a command, sampling it, ending an evaluation with a result, and
refusing the reserved encoding. There is no operation over memory or registers (R29, R40), and none that takes an
exception or returns from one: the block has no exception, no interrupt and no program counter (R120, R125, R126). -/

namespace Sys2Proof.Machine

/-- The host presents the inputs of its next evaluation (R144, R159). DESIGN CHOICE: the outputs keep the values last sampled
until that evaluation ends, where R147 leaves them unspecified (log entry 3). -/
def State.present (s : State) (c : Command) : State :=
  { s with op := encodeOp c.instr, gridIn := c.gridIn, randIn := c.randIn }

/-- The host presents the command word `w` (R63); a number that is no command word leaves the ports as they are (log
entry 4). -/
def presentWord (s : State) (w : Nat) : State :=
  match decodeWord w with
  | .ok c => s.present c
  | .error _ => s

/-- The command of this evaluation: the value of `op`, sampled with the other inputs (R25, R50). -/
def sampleInstr (s : State) : Instr := decodeOp s.op

/-- The evaluation ends with `gridOut` on `grid_out` and R89's flag of the grid operand on `done`; the inputs stay as
presented, and nothing else exists to change (R46). -/
def complete (s : State) (gridOut : Grid) : Host.Outcome State Fault Refusal :=
  .next { s with gridOut := gridOut, done := doneFlag (gridOperand s) }

/-- `raise Refused(reserved_op, op)`: the evaluation is refused and no `grid_out` is produced (R121). -/
def refuseReserved (op : OpBits) : Host.Outcome State Fault Refusal := .refused (.reservedOp op)

/-- The result word `Y` of the outputs last sampled (R64). -/
def resultWord (s : State) : ResultWord := packResult s.gridOut s.done

end Sys2Proof.Machine
end

