-- ==== Sys2Proof/Machine/LifeEngine.lean ====
section
/-! DEFINITION. The Life Engine family, which is the whole command set: `ADVANCE`, `COMPLEMENT`, `FILL` and the reserved
encoding (40_life_engine.md; 60_exceptions.md R121). -/

namespace Sys2Proof.Machine

/-- The offsets of the 3x3 square along one axis, `{-1, 0, 1}` (R81). -/
def offsets : List Int := [-1, 0, 1]

/-- The bit index of the position `(dr, dc)` away from cell `i`, where that is another cell of the grid: the grid is
bounded and does not wrap (R80, R81). -/
def neighbourAt (i : Nat) (dr dc : Int) : Option Nat :=
  let r : Int := rowOf i + dr
  let c : Int := colOf i + dc
  if (dr, dc) ≠ (0, 0) ∧ inGrid r c = true then some (bitIndex r.toNat c.toNat) else none

/-- `N(i)`: the bit indices of the neighbours of cell `i`, rising (R81). -/
def neighbours (i : Nat) : List Nat :=
  offsets.flatMap fun dr => offsets.filterMap fun dc => neighbourAt i dr dc

/-- The number of 1 bits (R10). -/
def popcount (bits : List Bool) : Nat := bits.count true

/-- `n(g, i)`, exact and unsigned (R82). -/
def neighbourCount (g : Grid) (i : Nat) : Nat := popcount ((neighbours i).map (cellBit g))

/-- `next(a, n)`: survival on 2 or 3 live neighbours, birth on 3 (R83). -/
def nextCell (a : Bool) (n : Nat) : Bool := n == 3 || (a && n == 2)

/-- The next generation: every cell from the one snapshot `g` (R84, R90). -/
def advanceGrid (g : Grid) : Grid := gridOf fun i => nextCell (cellBit g i) (neighbourCount g i)

/-- Every cell inverted; the 25 bits of a grid are all there are, so R87's mask `M25` is the width (R87). -/
def complementGrid (g : Grid) : Grid := ~~~g

/-- `ADVANCE` (R90). -/
def execAdvance (s : State) : Host.Outcome State Fault Refusal := complete s (advanceGrid (gridOperand s))

/-- `COMPLEMENT` (R87). -/
def execComplement (s : State) : Host.Outcome State Fault Refusal := complete s (complementGrid (gridOperand s))

/-- `FILL`: the random bits are copied bit for bit, and are not drawn again when all are 0 (R85). -/
def execFill (s : State) : Host.Outcome State Fault Refusal := complete s (randOperand s)

/-- The reserved encoding: `raise Refused(reserved_op, op)` (R96, R121; log entry 5). -/
def execReserved3 (_s : State) : Host.Outcome State Fault Refusal := refuseReserved (encodeOp .reserved3)

end Sys2Proof.Machine
end

