-- ==== Sys2Proof/Machine/Dispatch.lean ====
section
/-! DEFINITION. One arm per command: R96's case on `op`. -/

namespace Sys2Proof.Machine

def exec (i : Instr) (s : State) : Host.Outcome State Fault Refusal :=
  match i with
  | .advance => Sys2Proof.Machine.execAdvance s
  | .complement => Sys2Proof.Machine.execComplement s
  | .fill => Sys2Proof.Machine.execFill s
  | .reserved3 => Sys2Proof.Machine.execReserved3 s

end Sys2Proof.Machine
end

