-- ==== Sys2Proof/Machine/Step.lean ====
section
/-! DEFINITION. One step is one evaluation: the command on `op` is executed on the operands of the same evaluation (R60,
R146). It has no time (R146, R147). -/

namespace Sys2Proof.Machine

/-- One evaluation of the inputs presented (R96, R146). -/
def step (s : State) : Host.Outcome State Fault Refusal := exec (sampleInstr s) s

/-- `s` with the table word `w` presented on the input ports, so that the next step evaluates it (log entries 3, 4). -/
def State.withFetchWord (s : State) (nbits w : Nat) : State := presentWord s (tableBits nbits w)

end Sys2Proof.Machine
end

