-- ==== Sys2Proof/Machine/Harness.lean ====
section
/-! DEFINITION. The reference sequential harness of R160: a test bench around the block, not part of it. It holds the grid
register `G` and the list `D`, and runs a list of commands, each one evaluation of the block. -/

namespace Sys2Proof.Machine

/-- A command of a program for the harness (R160). -/
inductive HarnessCommand where
  | advance
  | complement
  | fill (r : Grid)
  | word (op : OpBits)
  deriving DecidableEq, Repr

/-- The harness's register `G` and its list `D` of `done` values (R160). -/
structure HarnessState where
  grid : Grid
  dones : List Bool
  deriving DecidableEq, Repr

/-- The end state of a program: the final `G` and `D`, or `Refused(k)` (R160). -/
inductive HarnessEnd where
  | finished (h : HarnessState)
  | refused (k : Nat)
  deriving DecidableEq, Repr

/-- The evaluation of one set of inputs (R146). What the ports held before does not matter (R32). -/
def evaluate (c : Command) : Host.Outcome State Fault Refusal := step (State.reset.present c)

/-- The inputs presented for a command when the register holds `g`: `rand_in` is 0 but for `FILL` (R160). -/
def harnessInputs (k : HarnessCommand) (g : Grid) : Command :=
  match k with
  | .advance => ⟨.advance, g, 0#25⟩
  | .complement => ⟨.complement, g, 0#25⟩
  | .fill r => ⟨.fill, g, r⟩
  | .word op => ⟨decodeOp op, g, 0#25⟩

/-- The command word the harness presents (R160). -/
def harnessWord (k : HarnessCommand) (g : Grid) : CommandWord := packCommand (harnessInputs k g)

/-- One command: append `done` to `D` and store all 25 bits of `grid_out` in `G` at once (R149, R160); `none` where the
evaluation is refused. -/
def harnessStep (h : HarnessState) (k : HarnessCommand) : Option HarnessState :=
  match evaluate (harnessInputs k h.grid) with
  | .next t => some { grid := t.gridOut, dones := h.dones ++ [t.done] }
  | .fault f => nomatch f
  | .refused _ => none

/-- The commands of a program in order, the next of them being number `k` (R160; log entry 11). -/
def harnessFrom (k : Nat) (h : HarnessState) : List HarnessCommand → HarnessEnd
  | [] => .finished h
  | c :: cs =>
    match harnessStep h c with
    | some h' => harnessFrom (k + 1) h' cs
    | none => .refused k

/-- A program from the start value `g` of `G`, with `D` empty (R160). -/
def harnessRun (g : Grid) (program : List HarnessCommand) : HarnessEnd := harnessFrom 1 ⟨g, []⟩ program

end Sys2Proof.Machine
end

