-- ==== Sys2Proof/Machine/HostLoop.lean ====
section
/-! DEFINITION. One frame of the source's host, as the host contract gives it (R154 to R158). The host is outside the block
(R5); this file joins a model of it to the block. The latch and the generator are inputs of a frame, and rendering and
sleeping change nothing held here (log entry 12). -/

namespace Sys2Proof.Machine

/-- What the host holds: the grid (R154), the debounce counter and the settle counter (R155, R157). -/
structure HostState where
  grid : Grid
  debounce : Nat
  settle : Nat
  deriving DecidableEq, Repr

/-- What a frame is given: the results of `peek_a()` and `take_b()`, and 25 fresh random bits (R155, R158). -/
structure FrameInput where
  peekA : Bool
  takeB : Bool
  rand : Grid
  deriving DecidableEq, Repr

/-- The four actions of a frame (R155). -/
inductive HostAction where
  | reseed
  | flip
  | settle
  | advance
  deriving DecidableEq, Repr

/-- `done` for the current grid, read from an evaluation that presents it: which command does not matter (R155). It
presents `ADVANCE`, so the refused arm is not reached; that it answers `false` there is a DESIGN CHOICE (log entry 14). -/
def hostDone (g : Grid) : Bool :=
  match evaluate ⟨.advance, g, 0#25⟩ with
  | .next t => t.done
  | .fault f => nomatch f
  | .refused _ => false

/-- The grid after an evaluation whose result is stored, all 25 bits at once (R149, R154). DESIGN CHOICE: where the
evaluation is refused the old grid is kept (log entry 14). R121 and R159 say nothing of what a host holds then, and no
frame reaches that arm: `hostAct` issues only the three commands. -/
def hostStored (c : Command) : Grid :=
  match evaluate c with
  | .next t => t.gridOut
  | .fault f => nomatch f
  | .refused _ => c.gridIn

/-- The priority chain, first match wins (R155, R156). A press taken while the debounce counter runs is consumed. -/
def hostAction (h : HostState) (x : FrameInput) : HostAction :=
  if x.peekA then .reseed
  else if x.takeB && h.debounce == 0 then .flip
  else if hostDone h.grid then .settle
  else .advance

/-- The effect of an action on the host's state (R155, R157). -/
def hostAct (a : HostAction) (h : HostState) (x : FrameInput) : HostState :=
  match a with
  | .reseed => { h with grid := hostStored ⟨.fill, h.grid, x.rand⟩ }
  | .flip => { h with grid := hostStored ⟨.complement, h.grid, 0#25⟩, debounce := 5 }
  | .settle =>
    if 5 ≤ h.settle + 1 then { h with grid := hostStored ⟨.fill, h.grid, x.rand⟩, settle := 0 }
    else { h with settle := h.settle + 1 }
  | .advance => { h with grid := hostStored ⟨.advance, h.grid, 0#25⟩, settle := 0 }

/-- After the action the debounce counter is decremented if it is positive (R155). -/
def hostTick (h : HostState) : HostState := { h with debounce := h.debounce - 1 }

/-- One frame (R155). -/
def hostFrame (h : HostState) (x : FrameInput) : HostState := hostTick (hostAct (hostAction h x) h x)

end Sys2Proof.Machine
end

