-- ==== Sys2Proof/Machine/Planes.lean ====
section
/-! DEFINITION. A second evaluator of the next generation, by shifted and masked planes of neighbours and a bit-sliced
count, as the preamble of 95_test_vectors.md tells of one. The model's meaning of `ADVANCE` is `advanceGrid`; this one
is here to be proved equal to it. -/

namespace Sys2Proof.Machine

/-- Column 0 of every row: bits 0, 5, 10, 15 and 20 (R22). -/
def firstColumn : Grid := 0x0108421#25

/-- Column 4 of every row: bits 4, 9, 14, 19 and 24 (R22). -/
def lastColumn : Grid := 0x1084210#25

/-- The 8 planes: bit `i` of each is the state of one neighbour position of cell `i`, dead outside the grid (R80, R81). -/
def neighbourPlanes (g : Grid) : List Grid :=
  [g <<< 6 &&& ~~~firstColumn, g <<< 5, g <<< 4 &&& ~~~lastColumn, g <<< 1 &&& ~~~firstColumn,
    g >>> 1 &&& ~~~lastColumn, g >>> 4 &&& ~~~firstColumn, g >>> 5, g >>> 6 &&& ~~~lastColumn]

/-- A 4-bit count for each of the 25 lanes, one plane per binary digit; 8 fits, so none overflows (R82). -/
structure LaneCounts where
  ones : Grid
  twos : Grid
  fours : Grid
  eights : Grid
  deriving DecidableEq, Repr

/-- Adds one bit to every lane's count (R82). -/
def addPlane (n : LaneCounts) (p : Grid) : LaneCounts where
  ones := n.ones ^^^ p
  twos := n.twos ^^^ (n.ones &&& p)
  fours := n.fours ^^^ (n.twos &&& n.ones &&& p)
  eights := n.eights ^^^ (n.fours &&& n.twos &&& n.ones &&& p)

/-- The neighbour counts of all 25 cells (R82, R95). -/
def planeCounts (g : Grid) : LaneCounts := (neighbourPlanes g).foldl addPlane ⟨0, 0, 0, 0⟩

/-- The next generation by planes: lanes whose count is 3, and live lanes whose count is 2 (R83, R95). -/
def advancePlanes (g : Grid) : Grid :=
  let n := planeCounts g
  n.twos &&& ~~~n.fours &&& ~~~n.eights &&& (n.ones ||| g)

end Sys2Proof.Machine
end

