-- ==== Sys2Proof/Machine/Symmetry.lean ====
section
/-! DEFINITION. The cell mappings of R43: the 8 symmetries of the square and, beside them, the serpentine order. -/

namespace Sys2Proof.Machine

/-- The 8 symmetries of the square (R43): 4 rotations, 2 mirror images, 2 transposes. -/
inductive SquareSymmetry where
  | identity
  | quarterTurn
  | halfTurn
  | threeQuarterTurn
  | mirrorRows
  | mirrorColumns
  | transpose
  | antiTranspose
  deriving DecidableEq, Repr

/-- The position to which the symmetry takes `(r, c)` on the 5x5 square (R43). -/
def symmetryMove (m : SquareSymmetry) (r c : Nat) : Nat × Nat :=
  match m with
  | .identity => (r, c)
  | .quarterTurn => (c, 4 - r)
  | .halfTurn => (4 - r, 4 - c)
  | .threeQuarterTurn => (4 - c, r)
  | .mirrorRows => (4 - r, c)
  | .mirrorColumns => (r, 4 - c)
  | .transpose => (c, r)
  | .antiTranspose => (4 - c, 4 - r)

/-- The serpentine order, which reverses every second row: a mapping that is no symmetry of the square (R43). -/
def serpentineMove (r c : Nat) : Nat × Nat := if r % 2 = 1 then (r, 4 - c) else (r, c)

/-- The grid whose cell `(r, c)` is the cell of `g` at the position `move` gives: what a host sees of `g` when it maps
cells to bits by R22 composed with `move` (R43). -/
def remapCells (move : Nat → Nat → Nat × Nat) (g : Grid) : Grid :=
  gridOf fun i => cell g (move (rowOf i) (colOf i)).1 (move (rowOf i) (colOf i)).2

end Sys2Proof.Machine
end

