-- ==== Sys2Proof/Config.lean ====
section
/-! DEFINITION. What the spec leaves to the implementation. The grid's size and the rule's thresholds are fixed and no
parameters (R7, D18); the one open parameter is the settling time. -/

namespace Sys2Proof

/-- `T_SETTLE`: the time from the last input change to valid outputs, an OPEN parameter (R7, R145; I3). It has no value
here, and its unit has no name (log entry 6). -/
opaque Config.tSettle : Nat

end Sys2Proof
end

