-- ==== Sys2Proof/Safety.lean ====
section
/-! DEFINITION. What claims say of an evaluation, in the spec's own terms and without the model's way of computing it: the
neighbours of a cell as R81's set, the next generation cell by cell (R83, R90), what the hardware may drive (R121), what
an early sample may show (R147), and what a host may issue (R144, R159). -/

namespace Sys2Proof

open Machine

/-- A cell of the grid by its coordinates (R9). -/
abbrev CellPos := Fin 5 × Fin 5

/-- `q` is a neighbour of `p`: another cell of the 3x3 square centred on `p` (R81); a `CellPos` lies inside the grid (R80). -/
abbrev Adjacent (p q : CellPos) : Prop :=
  q ≠ p ∧ (q.1 : Nat) ≤ p.1 + 1 ∧ (p.1 : Nat) ≤ q.1 + 1 ∧ (q.2 : Nat) ≤ p.2 + 1 ∧ (p.2 : Nat) ≤ q.2 + 1

/-- The state of the cell at `p` (R9, R22). -/
def cellAt (g : Grid) (p : CellPos) : Bool := cell g p.1 p.2

/-- The number of live neighbours of the cell at `p` (R82). -/
def liveNeighbours (g : Grid) (p : CellPos) : Nat :=
  (Finset.univ.filter fun q : CellPos => Adjacent p q ∧ cellAt g q = true).card

/-- Every cell is dead (R89). -/
abbrev AllDead (g : Grid) : Prop := ∀ p : CellPos, cellAt g p = false

/-- `g'` is the next generation of `g`: a live cell survives on 2 or 3 live neighbours, a dead one is born on 3 (R83, R90). -/
def NextGeneration (g g' : Grid) : Prop :=
  ∀ p : CellPos, cellAt g' p = true ↔ liveNeighbours g p = 3 ∨ (cellAt g p = true ∧ liveNeighbours g p = 2)

/-- The two outputs of an evaluation (R21). -/
structure Outputs where
  gridOut : Grid
  done : Bool
  deriving DecidableEq, Repr

/-- The outputs on the ports (R21). -/
def outputsOf (s : State) : Outputs := ⟨s.gridOut, s.done⟩

/-- The settled outputs the hardware may drive for the inputs of `s` (R96, and R121 for the reserved encoding, under which
`grid_out` may be anything and `done` is still driven). -/
def HardwareAllows (s : State) (o : Outputs) : Prop :=
  (o.done = true ↔ AllDead s.gridIn) ∧
  match sampleInstr s with
  | .advance => NextGeneration s.gridIn o.gridOut
  | .complement => ∀ p : CellPos, cellAt o.gridOut p = !cellAt s.gridIn p
  | .fill => ∀ p : CellPos, cellAt o.gridOut p = cellAt s.randIn p
  | .reserved3 => True

/-- What a sample may show `sinceChange` after the last input change, for a settling time `settle`: anything while the
block settles, and the settled outputs from `settle` on (R145, R147). -/
def SampleAllowsAt (settle sinceChange : Nat) (s : State) (o : Outputs) : Prop :=
  settle ≤ sinceChange → HardwareAllows s o

/-- What a sample may show, for the block's own `T_SETTLE`, which is open (R145; log entry 6). -/
def SampleAllows (sinceChange : Nat) (s : State) (o : Outputs) : Prop :=
  SampleAllowsAt Config.tSettle sinceChange s o

/-- The host may issue what `op` holds: one of the three commands (R144, R159). -/
def HostMayIssue (s : State) : Bool := (sampleInstr s).wellFormed

/-- The ports agree: a command the host may issue is presented, and the outputs are what the hardware drives for it (R141). -/
def PortsAgree (s : State) : Prop := HostMayIssue s = true ∧ HardwareAllows s (outputsOf s)

end Sys2Proof
end

