-- ==== Sys2Proof/Certificates/Slice0/Obligations.lean ====
section
/-! DEFINITION. The statements for the provers: encodings first, then the cells, each command's result and frame, the
machine as a whole, and last the test bench and the host's frame. -/

open Sys2Proof Sys2Proof.Machine

/-! ### Encoding -/

/-- R61's codes, and R62's totality: every value of `op` is the code of exactly one row. -/
def Obligations.OpcodeAssignment : Prop :=
  (encodeOp .advance = 0b00#2 ∧ encodeOp .complement = 0b01#2 ∧ encodeOp .fill = 0b10#2 ∧ encodeOp .reserved3 = 0b11#2) ∧
  ∀ (op : OpBits) (i : Instr), decodeOp op = i ↔ encodeOp i = op

/-- One command word of each row, as 95_test_vectors.md writes it out, decodes to that row and to its operands (R63, R69). -/
def Obligations.CommandWordsDecode : Prop :=
  (decodeTableWord 52 0x0000000084200 = some .advance ∧
    decodeWord 0x0000000084200 = .ok ⟨.advance, 0x0021080#25, 0x0000000#25⟩) ∧
  (decodeTableWord 52 0x0000002AF37BD = some .complement ∧
    decodeWord 0x0000002AF37BD = .ok ⟨.complement, 0x0ABCDEF#25, 0x0000000#25⟩) ∧
  (decodeTableWord 52 0xAAAAAAAAF37BE = some .fill ∧
    decodeWord 0xAAAAAAAAF37BE = .ok ⟨.fill, 0x0ABCDEF#25, 0x1555555#25⟩) ∧
  (decodeTableWord 52 0x91A2B38000003 = some .reserved3 ∧
    decodeWord 0x91A2B38000003 = .ok ⟨.reserved3, 0x0000000#25, 0x1234567#25⟩)

/-- R63: `W = {rand_in, grid_in, op} = op + 4·grid_in + 2^27·rand_in`, with the three fields where its table has them. -/
def Obligations.CommandWordLayout : Prop :=
  ∀ c : Command,
    (packCommand c).toNat = (encodeOp c.instr).toNat + 4 * c.gridIn.toNat + 2 ^ 27 * c.randIn.toNat ∧
    (packCommand c).extractLsb' 0 2 = encodeOp c.instr ∧
    (packCommand c).extractLsb' 2 25 = c.gridIn ∧
    (packCommand c).extractLsb' 27 25 = c.randIn

/-- The command words and the commands are in bijection: no bit of `W` is dropped and none is invented (R62, R63). -/
def Obligations.CommandWordRoundTrip : Prop :=
  (∀ c : Command, unpackCommand (packCommand c) = c ∧ decodeWord (packCommand c).toNat = .ok c) ∧
  ∀ w : CommandWord, packCommand (unpackCommand w) = w ∧ decodeWord w.toNat = .ok (unpackCommand w)

/-- R69's rows: match and mask on `W` and on `op` alone, and the operand fields of `W`. -/
def Obligations.TableMatchAndMask : Prop :=
  (∀ (w : CommandWord) (i : Instr),
    (unpackCommand w).instr = i ↔ w &&& 0x3#52 = (encodeOp i).setWidth 52) ∧
  (∀ (op : OpBits) (i : Instr), decodeOp op = i ↔ op &&& 0x3#2 = encodeOp i) ∧
  ∀ w : CommandWord, (unpackCommand w).gridIn.toNat = w.toNat / 4 % 2 ^ 25 ∧
    (unpackCommand w).randIn.toNat = w.toNat / 2 ^ 27

/-- A table word decodes exactly when its low `nbits` bits fit in the 52 bits of `W`, and then by its bits 1..0 (R63,
R69). That a wider number is rejected is the model's choice (log entry 4). -/
def Obligations.TableWordDecoding : Prop :=
  ∀ (nbits w : Nat) (i : Instr),
    decodeTableWord nbits w = some i ↔
      w % 2 ^ nbits < 2 ^ 52 ∧ w % 2 ^ nbits % 4 = (encodeOp i).toNat

/-- R64: `Y = {done, grid_out} = grid_out + 2^25·done`, with the two fields where its table has them. -/
def Obligations.ResultWordLayout : Prop :=
  ∀ s : State,
    (resultWord s).toNat = s.gridOut.toNat + 2 ^ 25 * s.done.toNat ∧
    (resultWord s).extractLsb' 0 25 = s.gridOut ∧
    (resultWord s).getLsbD 25 = s.done

/-- R67: what each assembler line drives on the three inputs; `.word` is any command word, the reserved one included. -/
def Obligations.AssemblerLines : Prop :=
  (∀ g : Grid, unpackCommand (assemble (.advance g)) = ⟨.advance, g, 0#25⟩) ∧
  (∀ g : Grid, unpackCommand (assemble (.complement g)) = ⟨.complement, g, 0#25⟩) ∧
  (∀ g r : Grid, unpackCommand (assemble (.fill g r)) = ⟨.fill, g, r⟩) ∧
  (∀ w : CommandWord, assemble (.word w) = w) ∧
  ∀ l : AsmLine, (unpackCommand (assemble l)).instr = .reserved3 →
    ∃ w : CommandWord, l = .word w ∧ w &&& 0x3#52 = 0x3#52

/-! ### Cells -/

/-- R22: cell `(r, c)` is bit `5·r + c`, bit `i` is cell `(i div 5, i mod 5)`, and row `r` is the slice
`g[5·r+4 : 5·r]` with column 0 in its bit 0. -/
def Obligations.CellMapping : Prop :=
  (∀ (g : Grid) (r c : Nat), r < 5 → c < 5 →
    cell g r c = g.getLsbD (5 * r + c) ∧ (rowSlice g r).getLsbD c = cell g r c ∧
    bitIndex r c < 25 ∧ rowOf (bitIndex r c) = r ∧ colOf (bitIndex r c) = c) ∧
  (∀ (g : Grid) (i : Nat), i < 25 →
    rowOf i = i / 5 ∧ colOf i = i % 5 ∧ rowOf i < 5 ∧ colOf i < 5 ∧
    bitIndex (rowOf i) (colOf i) = i ∧ g.getLsbD i = cell g (rowOf i) (colOf i)) ∧
  (bitIndex 0 0 = 0 ∧ bitIndex 0 4 = 4 ∧ bitIndex 4 0 = 20 ∧ bitIndex 4 4 = 24)

/-- R81: the neighbour list of each cell, against the set the rule defines and against the rule's own table. -/
def Obligations.NeighbourTable : Prop :=
  (∀ p q : CellPos, bitIndex q.1 q.2 ∈ neighbours (bitIndex p.1 p.2) ↔ Adjacent p q) ∧
  (∀ p q : CellPos, Adjacent p q ↔ Adjacent q p) ∧
  (List.range 25).map neighbours =
    [[1, 5, 6], [0, 2, 5, 6, 7], [1, 3, 6, 7, 8], [2, 4, 7, 8, 9], [3, 8, 9]] ++
    [[0, 1, 6, 10, 11], [0, 1, 2, 5, 7, 10, 11, 12], [1, 2, 3, 6, 8, 11, 12, 13], [2, 3, 4, 7, 9, 12, 13, 14],
      [3, 4, 8, 13, 14]] ++
    [[5, 6, 11, 15, 16], [5, 6, 7, 10, 12, 15, 16, 17], [6, 7, 8, 11, 13, 16, 17, 18], [7, 8, 9, 12, 14, 17, 18, 19],
      [8, 9, 13, 18, 19]] ++
    [[10, 11, 16, 20, 21], [10, 11, 12, 15, 17, 20, 21, 22], [11, 12, 13, 16, 18, 21, 22, 23],
      [12, 13, 14, 17, 19, 22, 23, 24], [13, 14, 18, 23, 24]] ++
    [[15, 16, 21], [15, 16, 17, 20, 22], [16, 17, 18, 21, 23], [17, 18, 19, 22, 24], [18, 19, 23]]

/-- R82: the count is that of the live neighbours, at most the number of neighbours and at most 8, and the 4-bit sum of
the bits does not overflow. (The rule's last sentence, that nothing else is arithmetic, is not stated here.) -/
def Obligations.NeighbourCountExact : Prop :=
  ∀ (g : Grid) (p : CellPos),
    neighbourCount g (bitIndex p.1 p.2) = liveNeighbours g p ∧
    liveNeighbours g p ≤ (neighbours (bitIndex p.1 p.2)).length ∧
    (neighbours (bitIndex p.1 p.2)).length ≤ 8 ∧
    ((neighbours (bitIndex p.1 p.2)).map fun j => (BitVec.ofBool (cellBit g j)).setWidth 4).sum.toNat =
      liveNeighbours g p

/-- R83: the cell rule as its formula and as its table, the next state of each cell as the rule's value at the cell's
state and count, and the bounds of the count at a corner and at any other edge cell. -/
def Obligations.CellRule : Prop :=
  (∀ (a : Bool) (n : Nat), nextCell a n = true ↔ n = 3 ∨ (a = true ∧ n = 2)) ∧
  (List.range 9).map (nextCell false) = [false, false, false, true, false, false, false, false, false] ∧
  (List.range 9).map (nextCell true) = [false, false, true, true, false, false, false, false, false] ∧
  (∀ (g : Grid) (p : CellPos), cellAt (advanceGrid g) p = nextCell (cellAt g p) (liveNeighbours g p)) ∧
  ∀ (g : Grid) (p : CellPos),
    ((p.1 = 0 ∨ p.1 = 4) ∧ (p.2 = 0 ∨ p.2 = 4) → liveNeighbours g p ≤ 3) ∧
    (p.1 = 0 ∨ p.1 = 4 ∨ p.2 = 0 ∨ p.2 = 4 → liveNeighbours g p ≤ 5)

/-! ### The commands: result, flag and frame -/

/-- R90: `ADVANCE` completes from every state with the next generation on `grid_out` (R83) and the flag of `grid_in` on
`done` (R89), and the inputs stay as presented. -/
def Obligations.AdvanceCompletes : Prop :=
  ∀ s : State, ∃ t : State, exec .advance s = .next t ∧
    NextGeneration s.gridIn t.gridOut ∧ (t.done = true ↔ AllDead s.gridIn) ∧
    t.op = s.op ∧ t.gridIn = s.gridIn ∧ t.randIn = s.randIn

/-- R87: `COMPLEMENT` completes from every state with every cell inverted, `(NOT g) AND M25`, and the flag of `grid_in` on
`done`, and the inputs stay as presented. -/
def Obligations.ComplementCompletes : Prop :=
  ∀ s : State, ∃ t : State, exec .complement s = .next t ∧
    t.gridOut = ~~~s.gridIn &&& 0x1FFFFFF#25 ∧
    (∀ p : CellPos, cellAt t.gridOut p = !cellAt s.gridIn p) ∧ (t.done = true ↔ AllDead s.gridIn) ∧
    t.op = s.op ∧ t.gridIn = s.gridIn ∧ t.randIn = s.randIn

/-- R85: `FILL` completes from every state with `rand_in` on `grid_out`, an all-dead one included, and the flag of
`grid_in`, not of the new grid, on `done`, and the inputs stay as presented. -/
def Obligations.FillCompletes : Prop :=
  ∀ s : State, ∃ t : State, exec .fill s = .next t ∧
    t.gridOut = s.randIn ∧ (∀ p : CellPos, cellAt t.gridOut p = cellAt s.randIn p) ∧
    (t.done = true ↔ AllDead s.gridIn) ∧
    t.op = s.op ∧ t.gridIn = s.gridIn ∧ t.randIn = s.randIn

/-- R121: in a model the evaluation of the reserved encoding is `Refused(reserved_op, op)`; on hardware `done` is still
driven by R89 and `grid_out` may take any 25-bit value. -/
def Obligations.ReservedEncodingRefused : Prop :=
  (∀ s : State, exec .reserved3 s = .refused (.reservedOp 0b11#2)) ∧
  ∀ s : State, s.op = 0b11#2 →
    step s = .refused (.reservedOp s.op) ∧
    ∀ (g : Grid) (d : Bool), HardwareAllows s ⟨g, d⟩ ↔ (d = true ↔ AllDead s.gridIn)

/-- R89: `done` is the all-dead predicate of `grid_in` under every command that completes, and what hardware drives on
`done` is that under every value of `op`, the reserved one included. After a live grid turns dead, `done` says so in the
next evaluation, the one that presents the dead grid. -/
def Obligations.DoneUnderEveryCommand : Prop :=
  (∀ (i : Instr) (s t : State), exec i s = .next t → (t.done = true ↔ AllDead s.gridIn)) ∧
  (∀ s : State, ∃ o : Outputs, HardwareAllows s o ∧
    ∀ o' : Outputs, HardwareAllows s o' → o'.done = o.done ∧ (o'.done = true ↔ AllDead s.gridIn)) ∧
  ∀ s t u : State, ¬ AllDead s.gridIn → exec .advance s = .next t → AllDead t.gridOut →
    exec .advance { t with gridIn := t.gridOut } = .next u → t.done = false ∧ u.done = true

/-- R88: two `COMPLEMENT`s in sequence, the second on the first's result, give back the grid. -/
def Obligations.ComplementInvolution : Prop :=
  ∀ s : State, ∃ t u : State, exec .complement s = .next t ∧
    exec .complement { t with gridIn := t.gridOut } = .next u ∧ u.gridOut = s.gridIn

/-- R91: `ADVANCE` of the all-dead grid is the all-dead grid. -/
def Obligations.DeadGridStaysDead : Prop :=
  ∀ s : State, AllDead s.gridIn →
    ∃ t : State, exec .advance s = .next t ∧ t.gridOut = s.gridIn ∧ AllDead t.gridOut ∧
      ∀ p : CellPos, liveNeighbours s.gridIn p = 0

/-- R92: a live cell with no live neighbours dies; where it is the only live cell, each of its neighbours has a count of 1
and stays dead. -/
def Obligations.IsolatedCellDies : Prop :=
  (∀ (s : State) (p : CellPos), cellAt s.gridIn p = true → liveNeighbours s.gridIn p = 0 →
    ∃ t : State, exec .advance s = .next t ∧ cellAt t.gridOut p = false) ∧
  ∀ (s : State) (p : CellPos), (∀ q : CellPos, cellAt s.gridIn q = decide (q = p)) →
    ∃ t : State, exec .advance s = .next t ∧ AllDead t.gridOut ∧
      ∀ q : CellPos, Adjacent p q → liveNeighbours s.gridIn q = 1

/-- R93: a 2x2 block at any of its 16 positions is stable; its cells have 3 live neighbours each, every dead cell at most 2. -/
def Obligations.BlockIsStill : Prop :=
  ∀ (s : State) (r c : Fin 4),
    (∀ q : CellPos, cellAt s.gridIn q =
      (((q.1 : Nat) == r || (q.1 : Nat) == r + 1) && ((q.2 : Nat) == c || (q.2 : Nat) == c + 1))) →
    ∃ t : State, exec .advance s = .next t ∧ t.gridOut = s.gridIn ∧
      ∀ q : CellPos, (cellAt s.gridIn q = true → liveNeighbours s.gridIn q = 3) ∧
        (cellAt s.gridIn q = false → liveNeighbours s.gridIn q ≤ 2)

/-- R94: a pattern touching an edge is not continued on the opposite edge: a change in column 4 does not reach column 0,
nor the other way, and likewise for rows; and the rule's own example. -/
def Obligations.EdgesDoNotWrap : Prop :=
  (∀ (s s' t t' : State), exec .advance s = .next t → exec .advance s' = .next t' →
    ((∀ p : CellPos, p.2 ≠ 4 → cellAt s.gridIn p = cellAt s'.gridIn p) →
      ∀ r : Fin 5, cellAt t.gridOut (r, 0) = cellAt t'.gridOut (r, 0)) ∧
    ((∀ p : CellPos, p.2 ≠ 0 → cellAt s.gridIn p = cellAt s'.gridIn p) →
      ∀ r : Fin 5, cellAt t.gridOut (r, 4) = cellAt t'.gridOut (r, 4)) ∧
    ((∀ p : CellPos, p.1 ≠ 4 → cellAt s.gridIn p = cellAt s'.gridIn p) →
      ∀ c : Fin 5, cellAt t.gridOut (0, c) = cellAt t'.gridOut (0, c)) ∧
    ((∀ p : CellPos, p.1 ≠ 0 → cellAt s.gridIn p = cellAt s'.gridIn p) →
      ∀ c : Fin 5, cellAt t.gridOut (4, c) = cellAt t'.gridOut (4, c))) ∧
  ∀ s : State, s.gridIn = 0x0008420#25 →
    ∃ t : State, exec .advance s = .next t ∧ t.gridOut = 0x0000C00#25 ∧ cellAt t.gridOut (2, 4) = false

/-- Lane `i` of `ADVANCE` reads input lane `i` and the lanes of its neighbours, and no other (R84, R95): two grids that
agree there give the same cell. -/
def Obligations.AdvanceIsLocal : Prop :=
  ∀ (s s' t t' : State) (p : CellPos),
    cellAt s.gridIn p = cellAt s'.gridIn p →
    (∀ q : CellPos, Adjacent p q → cellAt s.gridIn q = cellAt s'.gridIn q) →
    exec .advance s = .next t → exec .advance s' = .next t' →
    cellAt t.gridOut p = cellAt t'.gridOut p

/-- R66: a change of an operand a command does not read leaves that command's result unchanged; `done` reads `grid_in`
under `FILL` too. -/
def Obligations.UnusedOperands : Prop :=
  (∀ (s t : State) (r : Grid), exec .advance s = .next t →
    exec .advance { s with randIn := r } = .next { t with randIn := r }) ∧
  (∀ (s t : State) (r : Grid), exec .complement s = .next t →
    exec .complement { s with randIn := r } = .next { t with randIn := r }) ∧
  ∀ (s t : State) (g : Grid), exec .fill s = .next t →
    exec .fill { s with gridIn := g } = .next { t with gridIn := g, done := decide (AllDead g) }

/-- The orientation of the cell map cannot be seen through `ADVANCE`, `COMPLEMENT` or `done` under the 8 symmetries of the
square, and can be seen under the serpentine order (R43). -/
def Obligations.SymmetriesCommute : Prop :=
  (∀ (m : SquareSymmetry) (i : Instr) (s t : State), i = .advance ∨ i = .complement → exec i s = .next t →
    exec i { s with gridIn := remapCells (symmetryMove m) s.gridIn } =
      .next { t with gridIn := remapCells (symmetryMove m) s.gridIn,
                     gridOut := remapCells (symmetryMove m) t.gridOut }) ∧
  ∃ s t u : State, exec .advance s = .next t ∧
    exec .advance { s with gridIn := remapCells serpentineMove s.gridIn } = .next u ∧
    u.gridOut ≠ remapCells serpentineMove t.gridOut

/-- The evaluator by shifted and masked planes computes what `ADVANCE` computes, on every grid (R90; preamble of
95_test_vectors.md). -/
def Obligations.PlanesEqualAdvance : Prop :=
  ∀ s : State, exec .advance s =
    .next { s with gridOut := advancePlanes s.gridIn, done := decide (AllDead s.gridIn) }

/-! ### The machine as a whole -/

/-- A step is `exec` of the command on `op`, with nothing around it (R25, R60); a table word that decodes is presented on the
three inputs, and the next step is `exec` of its command. That presenting a word leaves the outputs as they stand, where
R147 leaves them unspecified, is the model's choice (log entry 3), and so is that the low `nbits` of the word are taken
(log entry 4). -/
def Obligations.StepRunsDecodedCommand : Prop :=
  (∀ s : State, step s = exec (decodeOp s.op) s) ∧
  ∀ (s : State) (nbits w : Nat) (c : Command), decodeWord (tableBits nbits w) = .ok c →
    decodeTableWord nbits w = some c.instr ∧
    s.withFetchWord nbits w = { s with op := encodeOp c.instr, gridIn := c.gridIn, randIn := c.randIn } ∧
    step (s.withFetchWord nbits w) = exec c.instr (s.withFetchWord nbits w)

/-- R96: the whole block as one function of its inputs, total, whose only other outcome is the refusal of the reserved
encoding. -/
def Obligations.KernelFunction : Prop :=
  ∀ s : State, ∃ d : Bool, (d = true ↔ AllDead s.gridIn) ∧
    (s.op = 0b00#2 → ∃ g' : Grid, NextGeneration s.gridIn g' ∧ step s = .next { s with gridOut := g', done := d }) ∧
    (s.op = 0b01#2 → step s = .next { s with gridOut := ~~~s.gridIn &&& 0x1FFFFFF#25, done := d }) ∧
    (s.op = 0b10#2 → step s = .next { s with gridOut := s.randIn, done := d }) ∧
    (s.op = 0b11#2 → step s = .refused (.reservedOp s.op))

/-- Every assigned command completes from every state, and nothing ever faults (R120). -/
def Obligations.CommandsNeverFail : Prop :=
  (∀ (i : Instr) (s : State), i.wellFormed = true → ∃ t : State, exec i s = .next t) ∧
  ∀ (i : Instr) (s : State) (f : Fault), exec i s ≠ .fault f

/-- R32: two evaluations with the same three inputs give the same outcome, whatever the outputs were before them. -/
def Obligations.EvaluationsAreStateless : Prop :=
  ∀ s s' : State, s.op = s'.op → s.gridIn = s'.gridIn → s.randIn = s'.randIn → step s = step s'

/-- R46: an evaluation changes nothing but its own outputs, and repeating it with the same inputs changes nothing more. -/
def Obligations.RepeatingChangesNothing : Prop :=
  ∀ s t : State, step s = .next t →
    t.op = s.op ∧ t.gridIn = s.gridIn ∧ t.randIn = s.randIn ∧ step t = .next t

/-- A step of a command the host may issue answers exactly the outputs the hardware may drive, which are then the only
ones; any other step is refused, and the hardware may then drive any `grid_out` (R96, R121). -/
def Obligations.StepMatchesHardware : Prop :=
  (∀ s : State, HostMayIssue s = true →
    ∃ t : State, step s = .next t ∧ ∀ o : Outputs, HardwareAllows s o ↔ o = outputsOf t) ∧
  ∀ s : State, HostMayIssue s = false →
    step s = .refused (.reservedOp s.op) ∧ ∀ g : Grid, ∃ o : Outputs, HardwareAllows s o ∧ o.gridOut = g

/-- The invariant: the outputs agree with the inputs. Every step establishes it, from any state at all, and the states
that meet it are exactly those a step leaves as they are (R141, R146). -/
def Obligations.StepKeepsPortsAgree : Prop :=
  (∀ s t : State, step s = .next t → PortsAgree t) ∧
  ∀ s : State, PortsAgree s ↔ step s = .next s

/-- The invariant holds at `State.reset`. The outputs there follow from the inputs the model chose (R141, R142; log
entries 1 and 2). -/
def Obligations.ResetOutputsAgree : Prop := PortsAgree State.reset

/-- The ports at `State.reset`: the inputs are the model's choice (log entry 1), the outputs R96 and R89 of them (log
entry 2). The spec gives the block no reset (R140). -/
def Obligations.ResetPortsAreTheModelsChoice : Prop :=
  State.reset.op = 0b00#2 ∧ State.reset.gridIn = 0#25 ∧ State.reset.randIn = 0#25 ∧
  State.reset.gridOut = 0#25 ∧ State.reset.done = true

/-- Whatever the settling time is: a sample taken before it may show anything, one taken later shows what the step
answers, and under the reserved encoding what R121 allows (R145, R147); and so for the block's own `T_SETTLE`, of which no
value is assumed (log entry 6). -/
def Obligations.SamplesAfterSettling : Prop :=
  (∀ (settle n : Nat) (s : State) (o : Outputs), n < settle → SampleAllowsAt settle n s o) ∧
  (∀ (settle n : Nat) (s t : State) (o : Outputs), settle ≤ n → step s = .next t →
    (SampleAllowsAt settle n s o ↔ o = outputsOf t)) ∧
  (∀ (settle n : Nat) (s : State) (o : Outputs), settle ≤ n → s.op = 0b11#2 →
    (SampleAllowsAt settle n s o ↔ (o.done = true ↔ AllDead s.gridIn))) ∧
  ∀ (n : Nat) (s t : State) (o : Outputs), step s = .next t →
    (SampleAllows (Config.tSettle + n) s o ↔ o = outputsOf t)

/-! ### The reference harness and the host's frame -/

/-- R160: a program runs command by command; each presents `op`, `G` and its `r`, whatever the ports held before, stops the
run where it is refused, and otherwise appends `done` to `D` and stores all of `grid_out` in `G`. -/
def Obligations.HarnessRunsCommands : Prop :=
  (∀ g : Grid, harnessInputs .advance g = ⟨.advance, g, 0#25⟩ ∧ harnessInputs .complement g = ⟨.complement, g, 0#25⟩ ∧
    (∀ r : Grid, harnessInputs (.fill r) g = ⟨.fill, g, r⟩) ∧
    ∀ op : OpBits, harnessInputs (.word op) g = ⟨decodeOp op, g, 0#25⟩) ∧
  (∀ (k : HarnessCommand) (g : Grid), (harnessWord k g).toNat =
    (encodeOp (harnessInputs k g).instr).toNat + 4 * g.toNat + 2 ^ 27 * (harnessInputs k g).randIn.toNat) ∧
  (∀ (g : Grid) (program : List HarnessCommand), harnessRun g program = harnessFrom 1 ⟨g, []⟩ program) ∧
  (∀ (k : Nat) (h : HarnessState), harnessFrom k h [] = .finished h) ∧
  ∀ (k : Nat) (h : HarnessState) (c : HarnessCommand) (cs : List HarnessCommand) (s : State),
    (∀ t : State, step (s.present (harnessInputs c h.grid)) = .next t →
      harnessFrom k h (c :: cs) = harnessFrom (k + 1) ⟨t.gridOut, h.dones ++ [t.done]⟩ cs) ∧
    ∀ r : Refusal, step (s.present (harnessInputs c h.grid)) = .refused r → harnessFrom k h (c :: cs) = .refused k

/-- A program is refused at command `k`, counted from 1, exactly when command `k` is its first reserved encoding (R121,
R160; the count from 1 is log entry 11). -/
def Obligations.HarnessRefusesAtFirstReserved : Prop :=
  ∀ (g : Grid) (program : List HarnessCommand) (k : Nat),
    harnessRun g program = .refused k ↔
      0 < k ∧ program[k - 1]? = some (.word 0b11#2) ∧ HarnessCommand.word 0b11#2 ∉ program.take (k - 1)

/-- A program with no reserved encoding finishes with one `done` value per command, and a program run in two parts gives
what it gives run whole (R160). The rest's commands are numbered on from the program's, counting from 1 (log entry 11). -/
def Obligations.HarnessFinishes : Prop :=
  ∀ (g : Grid) (program : List HarnessCommand), HarnessCommand.word 0b11#2 ∉ program →
    ∃ h : HarnessState, harnessRun g program = .finished h ∧ h.dones.length = program.length ∧
      ∀ rest : List HarnessCommand, harnessRun g (program ++ rest) = harnessFrom (program.length + 1) h rest

/-- R155's table, action by action, with the decrement of the debounce counter that follows the action (log entry 12: a
flip's 5 is decremented in its own frame, and the settle counter reaches 5 from 4 or above). -/
def Obligations.FramePriorityChain : Prop :=
  ∀ (h : HostState) (x : FrameInput),
    (x.peekA = true → hostFrame h x = ⟨x.rand, h.debounce - 1, h.settle⟩) ∧
    (x.peekA = false → x.takeB = true → h.debounce = 0 →
      hostFrame h x = ⟨~~~h.grid, 4, h.settle⟩) ∧
    (x.peekA = false → ¬ (x.takeB = true ∧ h.debounce = 0) → AllDead h.grid → h.settle < 4 →
      hostFrame h x = ⟨h.grid, h.debounce - 1, h.settle + 1⟩) ∧
    (x.peekA = false → ¬ (x.takeB = true ∧ h.debounce = 0) → AllDead h.grid → 4 ≤ h.settle →
      hostFrame h x = ⟨x.rand, h.debounce - 1, 0⟩) ∧
    (x.peekA = false → ¬ (x.takeB = true ∧ h.debounce = 0) → ¬ AllDead h.grid →
      ∃ g' : Grid, NextGeneration h.grid g' ∧ hostFrame h x = ⟨g', h.debounce - 1, 0⟩)

/-- R157: a frame sets a settle counter that is not 0 to 0 only in the Advance action and after the reseed of the Settle action; the
Reseed and Flip actions leave it unchanged. -/
def Obligations.SettleCounter : Prop :=
  ∀ (h : HostState) (x : FrameInput),
    (hostAction h x = .reseed ∨ hostAction h x = .flip → (hostFrame h x).settle = h.settle) ∧
    (hostAction h x = .advance → (hostFrame h x).settle = 0) ∧
    (hostAction h x = .settle →
      (hostFrame h x).settle = h.settle + 1 ∧ (hostFrame h x).grid = h.grid ∨
        (hostFrame h x).settle = 0 ∧ (hostFrame h x).grid = x.rand) ∧
    ((hostFrame h x).settle = 0 → h.settle = 0 ∨ hostAction h x = .advance ∨
      (hostAction h x = .settle ∧ (hostFrame h x).grid = x.rand))
end

