-- ==== Sys2Proof/Laws/Decode.lean ====
section
/-! SUPPORT. The command select: the decoder and the encoder are inverse to each other (R61, R62). -/

namespace Sys2Proof.Laws

/-- Every command is read back from its code. -/
@[simp] theorem decodeOp_encodeOp (i : Instr) : decodeOp (encodeOp i) = i := by cases i <;> rfl

/-- Every value of `op` is the code of the command it decodes to. -/
@[simp] theorem encodeOp_decodeOp (op : OpBits) : encodeOp (decodeOp op) = op := by revert op; decide

/-- The code of a command is the only one that decodes to it. -/
theorem decodeOp_eq_iff {op : OpBits} {i : Instr} : decodeOp op = i ↔ op = encodeOp i :=
  ⟨fun h => by rw [← h, encodeOp_decodeOp], fun h => by rw [h, decodeOp_encodeOp]⟩

/-- A number in range decodes to the command of its 52 bits. -/
theorem decodeWord_of_lt {w : Nat} (h : w < 2 ^ 52) : decodeWord w = .ok (unpackCommand (BitVec.ofNat 52 w)) :=
  if_pos (decide_eq_true h)

/-- A number out of range is rejected by name. -/
theorem decodeWord_of_ge {w : Nat} (h : 2 ^ 52 ≤ w) : decodeWord w = .error (.wordTooWide w) :=
  if_neg (by simpa [commandWordInRange] using h)

end Sys2Proof.Laws
end

