-- ==== Sys2Proof/Laws/State.lean ====
section
/-! SUPPORT. The ports after each update of the state: one lemma per port and update, and what ending an evaluation does. -/

namespace Sys2Proof.Laws

open Machine

@[simp] theorem present_op (s : State) (c : Command) : (s.present c).op = encodeOp c.instr := rfl
@[simp] theorem present_gridIn (s : State) (c : Command) : (s.present c).gridIn = c.gridIn := rfl
@[simp] theorem present_randIn (s : State) (c : Command) : (s.present c).randIn = c.randIn := rfl
@[simp] theorem present_gridOut (s : State) (c : Command) : (s.present c).gridOut = s.gridOut := rfl
@[simp] theorem present_done (s : State) (c : Command) : (s.present c).done = s.done := rfl

@[simp] theorem gridOperand_eq (s : State) : gridOperand s = s.gridIn := rfl
@[simp] theorem randOperand_eq (s : State) : randOperand s = s.randIn := rfl

/-- Ending an evaluation answers a next state: the result on `grid_out`, R89's flag on `done`, the inputs as presented. -/
theorem complete_eq_next (s : State) (g : Grid) :
    complete s g = .next { s with gridOut := g, done := doneFlag s.gridIn } := rfl

/-- All that a next state of `complete` can be. -/
theorem complete_next_iff {s t : State} {g : Grid} :
    complete s g = .next t ↔
      t.op = s.op ∧ t.gridIn = s.gridIn ∧ t.randIn = s.randIn ∧ t.gridOut = g ∧ t.done = doneFlag s.gridIn := by
  obtain ⟨_, _, _, _, _⟩ := t
  simp only [complete_eq_next, Host.Outcome.next.injEq, State.mk.injEq]
  constructor <;> rintro ⟨h1, h2, h3, h4, h5⟩ <;> exact ⟨h1.symm, h2.symm, h3.symm, h4.symm, h5.symm⟩

end Sys2Proof.Laws
end

