-- ==== Sys2Proof/Laws/Exec.lean ====
section
/-! SUPPORT. What a step can do, said once: the result of each command, and the inversion of `exec` and of `step`. -/

namespace Sys2Proof.Laws

open Machine

/-- The result each command drives on `grid_out` for the inputs of `s`; the reserved encoding drives none (R96). -/
def resultOf (i : Instr) (s : State) : Option Grid :=
  match i with
  | .advance => some (advanceGrid s.gridIn)
  | .complement => some (complementGrid s.gridIn)
  | .fill => some s.randIn
  | .reserved3 => none

/-- `exec` ends the evaluation with the command's result, or refuses where there is none. -/
theorem exec_eq (i : Instr) (s : State) :
    exec i s = match resultOf i s with
      | some g => .next { s with gridOut := g, done := doneFlag s.gridIn }
      | none => .refused (.reservedOp 0b11#2) := by
  cases i <;> rfl

/-- All that a next state of `exec` can be. -/
theorem exec_next_iff {i : Instr} {s t : State} :
    exec i s = .next t ↔
      ∃ g, resultOf i s = some g ∧ t = { s with gridOut := g, done := doneFlag s.gridIn } := by
  rw [exec_eq]
  cases resultOf i s <;> simp [eq_comm]

/-- A step is `exec` of the command on `op`. -/
theorem step_eq_exec (s : State) : step s = exec (decodeOp s.op) s := rfl

/-- All that a next state of a step can be. -/
theorem step_next_iff {s t : State} :
    step s = .next t ↔
      ∃ g, resultOf (decodeOp s.op) s = some g ∧ t = { s with gridOut := g, done := doneFlag s.gridIn } :=
  exec_next_iff

/-- A step of presented inputs is `exec` of the command presented. -/
theorem step_present (s : State) (c : Command) : step (s.present c) = exec c.instr (s.present c) := by
  rw [step_eq_exec, present_op, decodeOp_encodeOp]

/-- Presenting a number presents its command, or leaves the ports where it is no command word. -/
theorem presentWord_of_ok {s : State} {w : Nat} {c : Command} (h : decodeWord w = .ok c) :
    presentWord s w = s.present c := by
  rw [presentWord, h]

theorem presentWord_of_ge {s : State} {w : Nat} (h : 2 ^ 52 ≤ w) : presentWord s w = s := by
  rw [presentWord, decodeWord_of_ge h]

/-- The grid the host stores is the command's result (R154), or the old grid where there is none, which is the model's
choice (log entry 14). -/
theorem hostStored_eq (c : Command) :
    hostStored c = (resultOf c.instr (State.reset.present c)).getD c.gridIn := by
  simp only [hostStored, evaluate, step_present, exec_eq]
  cases resultOf c.instr (State.reset.present c) <;> rfl

/-- The flag the host reads is that of the current grid (R155). -/
theorem hostDone_eq (g : Grid) : hostDone g = doneFlag g := rfl

/-- One command of the harness: `D` grows by the flag of `G`, and `G` becomes the result (R160). -/
theorem harnessStep_eq (h : HarnessState) (k : HarnessCommand) :
    harnessStep h k = (resultOf (harnessInputs k h.grid).instr (State.reset.present (harnessInputs k h.grid))).map
      fun g => { grid := g, dones := h.dones ++ [doneFlag h.grid] } := by
  have hg : (harnessInputs k h.grid).gridIn = h.grid := by cases k <;> rfl
  simp only [harnessStep, evaluate, step_present, exec_eq]
  cases resultOf (harnessInputs k h.grid).instr (State.reset.present (harnessInputs k h.grid)) <;> simp [hg]

end Sys2Proof.Laws
end

