-- ==== Sys2Proof/Laws/Grid.lean ====
section
/-! SUPPORT. Grids cell by cell: what bit each grid operation leaves in each cell, and the neighbour lists as R81's sets. -/

namespace Sys2Proof.Laws

open Machine

theorem getLsbD_ofBits (f : Nat → Bool) : ∀ n i, (ofBits n f).getLsbD i = (decide (i < n) && f i)
  | 0, i => by simp [ofBits]
  | n + 1, i => by
    rw [ofBits, BitVec.getLsbD_cons, getLsbD_ofBits f n i]
    rcases Nat.lt_trichotomy i n with h | h | h
    · simp [h, Nat.ne_of_lt h, Nat.lt_succ_of_lt h]
    · simp [h]
    · simp [Nat.ne_of_gt h, Nat.not_lt.mpr (Nat.le_of_lt h), Nat.not_lt.mpr h]

/-- Cell `i` of the grid built from `f` is `f i`, inside the grid. -/
theorem cellBit_gridOf (f : Nat → Bool) {i : Nat} (h : i < 25) : cellBit (gridOf f) i = f i :=
  (getLsbD_ofBits f 25 i).trans (by simp [h])

/-- A position outside the grid has no bit (R80). -/
theorem cellBit_of_ge (g : Grid) {i : Nat} (h : 25 ≤ i) : cellBit g i = false :=
  BitVec.getLsbD_of_ge g i h

/-- Two grids whose 25 cells are equal are equal (R22). -/
theorem grid_ext {g g' : Grid} (h : ∀ i, i < 25 → cellBit g i = cellBit g' i) : g = g' :=
  BitVec.eq_of_getLsbD_eq h

/-- Each cell of the next generation, from the snapshot `g` alone (R84). -/
theorem cellBit_advanceGrid (g : Grid) {i : Nat} (h : i < 25) :
    cellBit (advanceGrid g) i = nextCell (cellBit g i) (neighbourCount g i) :=
  cellBit_gridOf _ h

theorem cellBit_complementGrid (g : Grid) {i : Nat} (h : i < 25) :
    cellBit (complementGrid g) i = !cellBit g i := by
  simp [cellBit, complementGrid, h]

/-- The bit index of a cell is in range, and its row and column are read back from it (R22). -/
theorem bitIndex_lt {r c : Nat} (hr : r < 5) (hc : c < 5) : bitIndex r c < 25 := by
  simp only [bitIndex]; omega

theorem bitIndex_rowOf_colOf (i : Nat) : bitIndex (rowOf i) (colOf i) = i := Nat.div_add_mod i 5

/-- The cell rule as a statement (R83). -/
theorem nextCell_eq_true {a : Bool} {n : Nat} : nextCell a n = true ↔ n = 3 ∨ (a = true ∧ n = 2) := by
  simp [nextCell]

/-- A neighbour is a cell of the grid (R80, R81). -/
theorem neighbours_lt : ∀ i, i < 25 → ∀ j ∈ neighbours i, j < 25 := by decide

/-- No cell is listed twice as a neighbour (R81). -/
theorem neighbours_nodup : ∀ i, i < 25 → (neighbours i).Nodup := by decide

/-- The count is that of the live cells among the neighbours (R82). -/
theorem neighbourCount_eq_countP (g : Grid) (i : Nat) : neighbourCount g i = (neighbours i).countP (cellBit g) := by
  simp [neighbourCount, popcount, List.count, List.countP_map, Function.comp_def]

/-- The flag says that every cell is dead (R89). -/
theorem doneFlag_eq_true {g : Grid} : doneFlag g = true ↔ ∀ i, i < 25 → cellBit g i = false := by
  constructor
  · intro h i _
    simp [doneFlag] at h
    simp [h, cellBit]
  · intro h
    simpa [doneFlag] using grid_ext (g' := 0#25) (by simpa [cellBit] using h)

end Sys2Proof.Laws
end

