-- ==== Sys2Proof/Laws/PerInstr.lean ====
section
/-! SUPPORT. The family Encoding: what the opcode table says of each row as syntax (R61, R69). -/

namespace Sys2Proof.Laws.Encoding

/-- `i` is read back from its code, and the two low bits of each of its command words are that code, whatever the
operands (R61, R69). -/
def Statement (i : Instr) : Prop :=
  decodeOp (encodeOp i) = i ∧ ∀ g r : Grid, (packCommand ⟨i, g, r⟩).extractLsb' 0 2 = encodeOp i

theorem low_bits (c : Command) : (packCommand c).extractLsb' 0 2 = encodeOp c.instr :=
  BitVec.eq_of_getLsbD_eq fun k hk => by
    rw [BitVec.getLsbD_extractLsb', Nat.zero_add, decide_eq_true hk, Bool.true_and]
    exact BitVec.getLsbD_append.trans (by simp [hk])

theorem advance : Statement .advance := ⟨rfl, fun _ _ => low_bits _⟩
theorem complement : Statement .complement := ⟨rfl, fun _ _ => low_bits _⟩
theorem fill : Statement .fill := ⟨rfl, fun _ _ => low_bits _⟩
theorem reserved3 : Statement .reserved3 := ⟨rfl, fun _ _ => low_bits _⟩

end Sys2Proof.Laws.Encoding
end

