-- ==== Sys2Proof/Tests/Slice0.lean ====
section
/-! SUPPORT. The model's own tests: ill-formed terms, words written out from the encoding, one or two steps per command with
the results 95_test_vectors.md gives, and for each statement with hypotheses the states that meet them. -/

namespace Sys2Proof.Tests

open Machine

/-! ### Well-formedness: an ill-formed term for each check -/

theorem test_reserved_is_ill_formed : Instr.reserved3.wellFormed = false := by decide
theorem test_commands_are_well_formed : ∀ i : Instr, i ≠ .reserved3 → i.wellFormed = true := by
  intro i; cases i <;> decide
theorem test_reserved_command_is_ill_formed : (Command.mk .reserved3 0 0).wellFormed = false := by decide
theorem test_word_of_53_bits_is_ill_formed : commandWordInRange 0x10000000000000 = false := by decide
theorem test_widest_word_is_well_formed : commandWordInRange 0xFFFFFFFFFFFFF = true := by decide

/-! ### Decoding: words written out bit by bit from R63 (`rand_in`, `grid_in`, `op`), and the vectors' words -/

theorem test_decode_advance : decodeWord
    0b0000000000000000000000000_0000000100001000010000000_00 = .ok ⟨.advance, 0x0021080#25, 0x0000000#25⟩ := rfl
theorem test_decode_complement : decodeWord
    0b1111111111111111111111111_0000000000000000000000001_01 = .ok ⟨.complement, 0x0000001#25, 0x1FFFFFF#25⟩ := rfl
theorem test_decode_fill : decodeWord
    0b1001000110100010101100111_0000000000000000000000000_10 = .ok ⟨.fill, 0x0000000#25, 0x1234567#25⟩ := rfl
theorem test_decode_reserved3 : decodeWord
    0b0000000000000000000000000_0000000000000000001100011_11 = .ok ⟨.reserved3, 0x0000063#25, 0x0000000#25⟩ := rfl
theorem test_decode_rejects_by_name : decodeWord 0x10000000000000 = .error (.wordTooWide 0x10000000000000) := rfl
/-- A row's fixed bits alone, its operands 0, in one byte. -/
theorem test_decode_table_words : (List.range 4).map (decodeTableWord 8) =
    [some .advance, some .complement, some .fill, some .reserved3] := by decide
/-- A number of 53 bits is no command word, and of 52 bits asked for only those are taken. -/
theorem test_decode_table_range : decodeTableWord 56 0x10000000000000 = none ∧
    decodeTableWord 52 0x10000000000001 = some .complement := by decide
/-- VF4's word (95_test_vectors.md). -/
theorem test_assemble_fill : assemble (.fill 0x0ABCDEF#25 0x1555555#25) = 0xAAAAAAAAF37BE#52 := by decide

/-! ### Steps -/

/-- The result word of the step that evaluates the command word `w`. -/
def resultAt (w : Nat) : Option ResultWord :=
  match step (State.reset.withFetchWord 52 w) with
  | .next t => some (resultWord t)
  | .fault _ => none
  | .refused _ => none

/-- VA19. -/
theorem test_advance_arbitrary : resultAt 0x0000002AF37BC = some 0x0B84209#26 := by decide
/-- VA9: no wrapping. -/
theorem test_advance_edge_line : resultAt 0x0000000021080 = some 0x0000C00#26 := by decide
/-- VC4. -/
theorem test_complement_arbitrary : resultAt 0x0000002AF37BD = some 0x1543210#26 := by decide
/-- VC1: `done` is that of `grid_in`. -/
theorem test_complement_dead : resultAt 0x0000000000001 = some 0x3FFFFFF#26 := by decide
/-- VF1. -/
theorem test_fill_dead_grid : resultAt 0x91A2B38000002 = some 0x3234567#26 := by decide
/-- VF5: only bit 24 of `grid_in` is set, so `done` is 0. -/
theorem test_fill_live_grid : resultAt 0x000000C000002 = some 0x0000001#26 := by decide
/-- VR1. -/
theorem test_reserved3_refused :
    step (State.reset.withFetchWord 52 0x0000000084203) = .refused (.reservedOp 0b11#2) := rfl
/-- S7: a press taken during the debounce does not flip, and the counter goes from 3 to 2. -/
theorem test_frame_debounce : (hostFrame ⟨0x0021080#25, 3, 0⟩ ⟨false, true, 0⟩).debounce = 2 := by decide
/-- S8: the settle counter goes from 4 to 5, which reseeds and sets it to 0. -/
theorem test_frame_reseed : hostFrame ⟨0, 0, 4⟩ ⟨false, false, 0x63#25⟩ = ⟨0x63#25, 0, 0⟩ := by decide

/-! ### Witnesses: for each statement with hypotheses, what meets them -/

/-- The ports with `op` and `grid_in` as given. -/
def ports (op : OpBits) (g : Grid) : State := ⟨op, g, 0x1234567#25, 0x0000007#25, false⟩

/-- The ports after an evaluation of `ports op g` that drives `y` and `d`. -/
def portsAfter (op : OpBits) (g y : Grid) (d : Bool) : State := ⟨op, g, 0x1234567#25, y, d⟩

theorem witness_AssemblerLines :
    (unpackCommand (assemble (.word 0x0000000084203#52))).instr = .reserved3 := by decide
theorem witness_CellMapping : (4 < 5 ∧ cell 0x1000000#25 4 4 = true) ∧ 24 < 25 ∧ cellBit 0x1000000#25 24 = true := by decide
theorem witness_CellRule_corner :
    ((4 : Fin 5) = 4 ∧ (0 : Fin 5) = 0) ∧ liveNeighbours 0x1FFFFFF#25 (4, 0) = 3 := by decide +kernel
theorem witness_CellRule_edge : (4 : Fin 5) = 4 ∧ liveNeighbours 0x1FFFFFF#25 (4, 2) = 5 := by decide +kernel
theorem witness_ReservedEncodingRefused : (ports 0b11#2 0x63#25).op = 0b11#2 := rfl
theorem witness_DoneUnderEveryCommand :
    exec .fill (ports 0b10#2 0) = .next (portsAfter 0b10#2 0 0x1234567#25 true) ∧
    exec .complement (ports 0b01#2 0x1FFFFFF#25) = .next (portsAfter 0b01#2 0x1FFFFFF#25 0 false) := ⟨rfl, rfl⟩
/-- VD4, and VD1 after it. -/
theorem witness_DoneUnderEveryCommand_next :
    ¬ AllDead (ports 0#2 0x0001000#25).gridIn ∧
    exec .advance (ports 0#2 0x0001000#25) = .next (portsAfter 0#2 0x0001000#25 0 false) ∧
    AllDead (portsAfter 0#2 0x0001000#25 0 false).gridOut ∧
    exec .advance { portsAfter 0#2 0x0001000#25 0 false with gridIn := 0 } = .next (portsAfter 0#2 0 0 true) :=
  ⟨by decide, rfl, by decide, rfl⟩
theorem witness_DeadGridStaysDead : AllDead (ports 0#2 0).gridIn := by decide
/-- Cell (4, 4) is alive alone in its neighbourhood, and (0, 0) is alive too. -/
theorem witness_IsolatedCellDies : cellAt (ports 0#2 0x1000001#25).gridIn (4, 4) = true ∧
    liveNeighbours (ports 0#2 0x1000001#25).gridIn (4, 4) = 0 := by decide +kernel
theorem witness_IsolatedCellDies_alone :
    ∀ q : CellPos, cellAt (ports 0#2 0x1000000#25).gridIn q = decide (q = (4, 4)) := by decide
theorem witness_BlockIsStill_first : ∀ q : CellPos, cellAt (ports 0#2 0x0000063#25).gridIn q =
    (((q.1 : Nat) == 0 || (q.1 : Nat) == 0 + 1) && ((q.2 : Nat) == 0 || (q.2 : Nat) == 0 + 1)) := by decide
theorem witness_BlockIsStill_last : ∀ q : CellPos, cellAt (ports 0#2 0x18C0000#25).gridIn q =
    (((q.1 : Nat) == 3 || (q.1 : Nat) == 3 + 1) && ((q.2 : Nat) == 3 || (q.2 : Nat) == 3 + 1)) := by decide
/-- Two grids that differ in the cell (0, 4) only, so in column 4 and in row 0. -/
theorem witness_EdgesDoNotWrap :
    (exec .advance (ports 0#2 0x0008420#25) = .next (portsAfter 0#2 0x0008420#25 0x0000C00#25 false) ∧
      exec .advance (ports 0#2 0x0008430#25) = .next (portsAfter 0#2 0x0008430#25 0x0000C00#25 false)) ∧
    (∀ p : CellPos, p.2 ≠ 4 → cellAt 0x0008420#25 p = cellAt 0x0008430#25 p) ∧
    ∀ p : CellPos, p.1 ≠ 0 → cellAt 0x0008420#25 p = cellAt 0x0008430#25 p := ⟨⟨rfl, rfl⟩, by decide, by decide⟩
/-- Two grids that differ in the cell (4, 0) only, so in column 0 and in row 4. -/
theorem witness_EdgesDoNotWrap_opposite :
    (exec .advance (ports 0#2 0x0100000#25) = .next (portsAfter 0#2 0x0100000#25 0 false) ∧
      exec .advance (ports 0#2 0x0000000#25) = .next (portsAfter 0#2 0x0000000#25 0 true)) ∧
    (∀ p : CellPos, p.2 ≠ 0 → cellAt 0x0100000#25 p = cellAt 0x0000000#25 p) ∧
    ∀ p : CellPos, p.1 ≠ 4 → cellAt 0x0100000#25 p = cellAt 0x0000000#25 p := ⟨⟨rfl, rfl⟩, by decide, by decide⟩
theorem witness_EdgesDoNotWrap_example : (ports 0#2 0x0008420#25).gridIn = 0x0008420#25 := rfl
/-- The grids of `witness_EdgesDoNotWrap` agree on the cell (2, 0) and its neighbours. -/
theorem witness_AdvanceIsLocal :
    cellAt (ports 0#2 0x0008420#25).gridIn (2, 0) = cellAt (ports 0#2 0x0008430#25).gridIn (2, 0) ∧
    ∀ q : CellPos, Adjacent (2, 0) q →
      cellAt (ports 0#2 0x0008420#25).gridIn q = cellAt (ports 0#2 0x0008430#25).gridIn q := by decide
theorem witness_UnusedOperands :
    exec .advance (ports 0#2 0x0021080#25) = .next (portsAfter 0#2 0x0021080#25 0x0003800#25 false) ∧
    exec .complement (ports 1#2 0x1555555#25) = .next (portsAfter 1#2 0x1555555#25 0x0AAAAAA#25 false) ∧
    exec .fill (ports 2#2 0x1555555#25) = .next (portsAfter 2#2 0x1555555#25 0x1234567#25 false) := ⟨rfl, rfl, rfl⟩
theorem witness_SymmetriesCommute : (Instr.advance = .advance ∨ Instr.advance = .complement) ∧
    exec .advance (ports 0#2 0x0021080#25) = .next (portsAfter 0#2 0x0021080#25 0x0003800#25 false) := ⟨.inl rfl, rfl⟩
theorem witness_StepRunsDecodedCommand :
    decodeWord (tableBits 52 0xFFFFFFFFFFFFE) = .ok ⟨.fill, 0x1FFFFFF#25, 0x1FFFFFF#25⟩ := rfl
theorem witness_KernelFunction : (ports 0#2 0).op = 0b00#2 ∧ (ports 1#2 0).op = 0b01#2 ∧ (ports 2#2 0).op = 0b10#2 ∧
    (ports 3#2 0).op = 0b11#2 := ⟨rfl, rfl, rfl, rfl⟩
theorem witness_CommandsNeverFail : Instr.fill.wellFormed = true := rfl
theorem witness_EvaluationsAreStateless :
    (ports 0#2 0x63#25).op = (portsAfter 0#2 0x63#25 0 true).op ∧
    (ports 0#2 0x63#25).gridIn = (portsAfter 0#2 0x63#25 0 true).gridIn ∧
    (ports 0#2 0x63#25).randIn = (portsAfter 0#2 0x63#25 0 true).randIn ∧
    ports 0#2 0x63#25 ≠ portsAfter 0#2 0x63#25 0 true := by decide
/-- Also a state and its next state for RepeatingChangesNothing, SamplesAfterSettling and HarnessRunsCommands. -/
theorem witness_StepKeepsPortsAgree :
    step (ports 0#2 0x0021080#25) = .next (portsAfter 0#2 0x0021080#25 0x0003800#25 false) := rfl
theorem witness_StepMatchesHardware : HostMayIssue (ports 0b10#2 0) = true ∧ HostMayIssue (ports 0b11#2 0) = false := by
  decide
/-- A sample one unit early, and one on time. -/
theorem witness_SamplesAfterSettling : (0 : Nat) < 1 ∧ (1 : Nat) ≤ 1 ∧ (ports 0b11#2 0).op = 0b11#2 := by decide
theorem witness_HarnessRunsCommands :
    step (State.reset.present (harnessInputs (.fill 0x63#25) 0)) = .next ⟨2#2, 0, 0x63#25, 0x63#25, true⟩ ∧
    step (State.reset.present (harnessInputs (.word 3#2) 0)) = .refused (.reservedOp 3#2) := ⟨rfl, rfl⟩
/-- P5, which is refused at its second command. -/
theorem witness_HarnessRefusesAtFirstReserved :
    harnessRun 0x0000063#25 [.advance, .word 3#2, .advance] = .refused 2 := rfl
theorem witness_HarnessFinishes : HarnessCommand.word 3#2 ∉ [.fill 0x63#25, .word 0#2] := by decide
theorem witness_FramePriorityChain_reseed : (FrameInput.mk true true 0).peekA = true := rfl
theorem witness_FramePriorityChain_flip : (FrameInput.mk false true 0).peekA = false ∧
    (FrameInput.mk false true 0).takeB = true ∧ (HostState.mk 0 0 0).debounce = 0 := ⟨rfl, rfl, rfl⟩
/-- The settle counter just below 4 and at 4, with the debounce counter at its least running value. -/
theorem witness_FramePriorityChain_settle : (FrameInput.mk false true 0).peekA = false ∧
    ¬ ((FrameInput.mk false true 0).takeB = true ∧ (HostState.mk 0 1 3).debounce = 0) ∧
    AllDead (HostState.mk 0 1 3).grid ∧ (HostState.mk 0 1 3).settle < 4 ∧ 4 ≤ (HostState.mk 0 1 4).settle := by decide
theorem witness_FramePriorityChain_advance : ¬ AllDead (HostState.mk 0x63#25 0 0).grid := by decide
theorem witness_SettleCounter :
    hostAction ⟨0x63#25, 0, 2⟩ ⟨true, false, 0⟩ = .reseed ∧ hostAction ⟨0x63#25, 0, 2⟩ ⟨false, true, 0⟩ = .flip ∧
    hostAction ⟨0x63#25, 0, 2⟩ ⟨false, false, 0⟩ = .advance ∧ hostAction ⟨0, 0, 2⟩ ⟨false, false, 0⟩ = .settle ∧
    (hostFrame ⟨0, 0, 4⟩ ⟨false, false, 0⟩).settle = 0 := by decide

end Sys2Proof.Tests
end

section
/-! SUPPORT. Proofs about the ports, the cells of a grid and the step (10_state.md). -/

namespace Sys2Proof.Proofs.StateRules

open Machine Laws

/-! Cells of a grid (R22). -/

@[simp] theorem rowOf_bitIndex {r c : Nat} (hc : c < 5) : rowOf (bitIndex r c) = r := by
  simp only [rowOf, bitIndex]; omega

@[simp] theorem colOf_bitIndex {r c : Nat} (hc : c < 5) : colOf (bitIndex r c) = c := by
  simp only [colOf, bitIndex]; omega

theorem rowOf_lt {i : Nat} (hi : i < 25) : rowOf i < 5 := Nat.div_lt_of_lt_mul hi

theorem colOf_lt (i : Nat) : colOf i < 5 := Nat.mod_lt i (by decide)

/-- Bit `c` of the slice of row `r` is the cell `(r, c)`. -/
theorem getLsbD_rowSlice (g : Grid) (r : Nat) {c : Nat} (hc : c < 5) : (rowSlice g r).getLsbD c = cell g r c := by
  simp [rowSlice, cell, cellBit, bitIndex, hc]

/-- Bit `i` is the cell at its own row and column. -/
theorem cell_rowOf_colOf (g : Grid) (i : Nat) : cell g (rowOf i) (colOf i) = g.getLsbD i := by
  rw [cell, bitIndex_rowOf_colOf, cellBit]

/-- Settles O9: the row and column of an index are its quotient and remainder by 5, inverse to `5·r + c` for `c < 5`. -/
theorem cellMapping : Obligations.CellMapping := by
  refine ⟨fun g r c hr hc => ?cellToBit, fun g i hi => ?bitToCell, ?corners⟩
  case cellToBit => exact ⟨rfl, getLsbD_rowSlice g r hc, bitIndex_lt hr hc, rowOf_bitIndex hc, colOf_bitIndex hc⟩
  case bitToCell =>
    exact ⟨rfl, rfl, rowOf_lt hi, colOf_lt i, bitIndex_rowOf_colOf i, (cell_rowOf_colOf g i).symm⟩
  case corners => decide

/-! Presenting a table word. -/

/-- A table word whose low bits are a command word decodes to that command's instruction. -/
theorem decodeTableWord_of_ok {nbits w : Nat} {c : Command} (h : decodeWord (tableBits nbits w) = .ok c) :
    decodeTableWord nbits w = some c.instr := by
  rw [decodeTableWord, h]

/-- A table word whose low bits are a command word puts that command on the input ports. -/
theorem withFetchWord_of_ok (s : State) {nbits w : Nat} {c : Command} (h : decodeWord (tableBits nbits w) = .ok c) :
    s.withFetchWord nbits w = s.present c :=
  presentWord_of_ok h

/-- Settles O27: fetching a table word is presenting its command, and a step of a presented command is its `exec`. -/
theorem stepRunsDecodedCommand : Obligations.StepRunsDecodedCommand := by
  refine ⟨step_eq_exec, fun s nbits w c h => ⟨decodeTableWord_of_ok h, withFetchWord_of_ok s h, ?_⟩⟩
  rw [withFetchWord_of_ok s h, step_present]

/-! Independence of the outputs held before (R32). -/

/-- The result of a command is a function of `grid_in` and `rand_in`. -/
theorem resultOf_congr (i : Instr) {s s' : State} (hgrid : s.gridIn = s'.gridIn) (hrand : s.randIn = s'.randIn) :
    resultOf i s = resultOf i s' := by
  cases i <;> simp only [resultOf, hgrid, hrand]

/-- `exec` reads the three input ports alone, and overwrites both outputs wherever it answers a next state. -/
theorem exec_congr_inputs (i : Instr) {s s' : State} (hop : s.op = s'.op) (hgrid : s.gridIn = s'.gridIn)
    (hrand : s.randIn = s'.randIn) : exec i s = exec i s' := by
  rw [exec_eq, exec_eq, resultOf_congr i hgrid hrand, hop, hgrid, hrand]

/-- Settles O30: equal inputs select the same command, and `exec` does not read the outputs. -/
theorem evaluationsAreStateless : Obligations.EvaluationsAreStateless := by
  intro s s' hop hgrid hrand
  rw [step_eq_exec, step_eq_exec, hop, exec_congr_inputs _ hop hgrid hrand]

end Sys2Proof.Proofs.StateRules
end

section
/-! SUPPORT. Proofs about the cell mappings of R43 and about repeating an evaluation, R46 (20_memory.md). -/

namespace Sys2Proof.Proofs.CellMaps

open Machine Laws StateRules

/-! Repeating an evaluation (R46). -/

/-- A next state of a step keeps the three inputs. -/
theorem step_next_inputs {s t : State} (h : step s = .next t) :
    t.op = s.op ∧ t.gridIn = s.gridIn ∧ t.randIn = s.randIn := by
  obtain ⟨g, -, rfl⟩ := step_next_iff.mp h
  exact ⟨rfl, rfl, rfl⟩

/-- Settles O31: a step keeps the inputs, and an evaluation of the same inputs has the same outcome (R32). -/
theorem repeatingChangesNothing : Obligations.RepeatingChangesNothing := by
  intro s t h
  obtain ⟨hop, hgrid, hrand⟩ := step_next_inputs h
  exact ⟨hop, hgrid, hrand, (evaluationsAreStateless t s hop hgrid hrand).trans h⟩

/-! Grids under a cell mapping (R43). -/

/-- The bit index of the cell to which `move` takes the cell with bit index `i` (R22). -/
def movedIndex (move : Nat → Nat → Nat × Nat) (i : Nat) : Nat :=
  bitIndex (move (rowOf i) (colOf i)).1 (move (rowOf i) (colOf i)).2

/-- Cell `i` of the remapped grid is the cell of `g` to which the mapping takes `i`. -/
theorem cellBit_remapCells (move : Nat → Nat → Nat × Nat) (g : Grid) {i : Nat} (hi : i < 25) :
    cellBit (remapCells move g) i = cellBit g (movedIndex move i) :=
  cellBit_gridOf _ hi

/-- `move` permutes the 25 cells and takes the neighbours of each cell to the neighbours of its image (R81). -/
structure KeepsNeighbourhoods (move : Nat → Nat → Nat × Nat) : Prop where
  index_lt : ∀ i, i < 25 → movedIndex move i < 25
  index_surjective : ∀ j, j < 25 → ∃ i, i < 25 ∧ movedIndex move i = j
  map_neighbours : ∀ i, i < 25 → ((neighbours i).map (movedIndex move)).Perm (neighbours (movedIndex move i))

/-- Each of the 8 symmetries permutes the cells and keeps their neighbourhoods, cell by cell. -/
theorem symmetryMove_keepsNeighbourhoods (m : SquareSymmetry) : KeepsNeighbourhoods (symmetryMove m) where
  index_lt := by cases m <;> decide
  index_surjective := by cases m <;> decide
  map_neighbours := by cases m <;> decide

section

variable {move : Nat → Nat → Nat × Nat} (hmove : KeepsNeighbourhoods move) (g : Grid)

include hmove

/-- A cell of the remapped grid has as many live neighbours as its image has in the grid. -/
theorem neighbourCount_remapCells {i : Nat} (hi : i < 25) :
    neighbourCount (remapCells move g) i = neighbourCount g (movedIndex move i) := by
  have hcells : ∀ j ∈ neighbours i, cellBit (remapCells move g) j = cellBit g (movedIndex move j) :=
    fun j hj => cellBit_remapCells move g (neighbours_lt i hi j hj)
  calc neighbourCount (remapCells move g) i
      = (neighbours i).countP (cellBit (remapCells move g)) := neighbourCount_eq_countP _ i
    _ = (neighbours i).countP (cellBit g ∘ movedIndex move) :=
        List.countP_congr fun j hj => by rw [hcells j hj, Function.comp_apply]
    _ = ((neighbours i).map (movedIndex move)).countP (cellBit g) := List.countP_map.symm
    _ = (neighbours (movedIndex move i)).countP (cellBit g) := (hmove.map_neighbours i hi).countP_eq _
    _ = neighbourCount g (movedIndex move i) := (neighbourCount_eq_countP g _).symm

theorem advanceGrid_remapCells : advanceGrid (remapCells move g) = remapCells move (advanceGrid g) := by
  refine grid_ext fun i hi => ?_
  rw [cellBit_advanceGrid _ hi, cellBit_remapCells move _ hi, cellBit_remapCells move _ hi,
    neighbourCount_remapCells hmove g hi, cellBit_advanceGrid _ (hmove.index_lt i hi)]

theorem complementGrid_remapCells : complementGrid (remapCells move g) = remapCells move (complementGrid g) := by
  refine grid_ext fun i hi => ?_
  rw [cellBit_complementGrid _ hi, cellBit_remapCells move _ hi, cellBit_remapCells move _ hi,
    cellBit_complementGrid _ (hmove.index_lt i hi)]

/-- The remapped grid has all its cells dead exactly when the grid has: every cell is the image of one. -/
theorem doneFlag_remapCells : doneFlag (remapCells move g) = doneFlag g := by
  rw [Bool.eq_iff_iff, doneFlag_eq_true, doneFlag_eq_true]
  constructor
  · intro hdead j hj
    obtain ⟨i, hi, rfl⟩ := hmove.index_surjective j hj
    rw [← cellBit_remapCells move g hi, hdead i hi]
  · intro hdead i hi
    rw [cellBit_remapCells move g hi, hdead _ (hmove.index_lt i hi)]

/-- The result of `ADVANCE` and of `COMPLEMENT` on the remapped grid is the remapped result. -/
theorem resultOf_remapCells {i : Instr} (hi : i = .advance ∨ i = .complement) (s : State) :
    resultOf i { s with gridIn := remapCells move s.gridIn } = (resultOf i s).map (remapCells move) := by
  obtain rfl | rfl := hi
  · exact congrArg some (advanceGrid_remapCells hmove s.gridIn)
  · exact congrArg some (complementGrid_remapCells hmove s.gridIn)

end

/-- The serpentine order does not commute with `ADVANCE` on the column of cells (1, 1), (2, 1) and (3, 1). `ADVANCE`
makes of it the row (2, 0) to (2, 2), which the order leaves as it is, and of the remapped column the cell (2, 2). -/
theorem advanceGrid_remapCells_serpentineMove_ne :
    advanceGrid (remapCells serpentineMove 0x0010840#25) ≠ remapCells serpentineMove (advanceGrid 0x0010840#25) := by
  decide

/-- Settles O25: a mapping that keeps the neighbourhoods commutes with the result and the flag, and the 8 symmetries
are such mappings; the serpentine order fails on a column of three cells. -/
theorem symmetriesCommute : Obligations.SymmetriesCommute := by
  refine ⟨fun m i s t hi h => ?symmetries, ?serpentine⟩
  case symmetries =>
    have hm := symmetryMove_keepsNeighbourhoods m
    obtain ⟨g, hg, rfl⟩ := exec_next_iff.mp h
    exact exec_next_iff.mpr ⟨remapCells (symmetryMove m) g,
      by rw [resultOf_remapCells hm hi, hg, Option.map_some], by rw [doneFlag_remapCells hm]⟩
  case serpentine =>
    exact ⟨{ State.reset with gridIn := 0x0010840#25 }, _, _, rfl, rfl, advanceGrid_remapCells_serpentineMove_ne⟩

end Sys2Proof.Proofs.CellMaps
end

section
/-! SUPPORT. Proofs about the command word, the result word, the assembler's lines and the operands each command reads
(30_encoding.md). -/

namespace Sys2Proof.Proofs.Encoding

open Machine Laws StateRules

/-! The fields of a command word (R63). -/

/-- The value of two fields side by side, the lower one in the low bits. -/
theorem toNat_append_eq_add {m n : Nat} (hi : BitVec m) (lo : BitVec n) :
    (hi ++ lo).toNat = lo.toNat + 2 ^ n * hi.toNat := by
  rw [BitVec.toNat_append, ← Nat.shiftLeft_add_eq_or_of_lt lo.isLt, Nat.shiftLeft_eq, Nat.mul_comm, Nat.add_comm]

theorem toNat_packCommand (c : Command) :
    (packCommand c).toNat = (encodeOp c.instr).toNat + 4 * c.gridIn.toNat + 2 ^ 27 * c.randIn.toNat := by
  have hop := toNat_append_eq_add (c.randIn ++ c.gridIn) (encodeOp c.instr)
  have hgrid := toNat_append_eq_add c.randIn c.gridIn
  rw [packCommand]
  omega

/-- `op` is the lowest field, so `W[26:2]` and `W[51:27]` are fields of `{rand_in, grid_in}`. -/
theorem extractLsb'_packCommand_of_le (c : Command) {start len : Nat} (h : 2 ≤ start) :
    (packCommand c).extractLsb' start len = (c.randIn ++ c.gridIn).extractLsb' (start - 2) len :=
  BitVec.extractLsb'_append_eq_of_le h

theorem gridIn_field_packCommand (c : Command) : (packCommand c).extractLsb' 2 25 = c.gridIn :=
  (extractLsb'_packCommand_of_le c (by decide)).trans BitVec.extractLsb'_append_eq_right

theorem randIn_field_packCommand (c : Command) : (packCommand c).extractLsb' 27 25 = c.randIn :=
  (extractLsb'_packCommand_of_le c (by decide)).trans BitVec.extractLsb'_append_eq_left

/-- Settles O3: `W` is the three fields side by side, so each of them is a slice of it. -/
theorem commandWordLayout : Obligations.CommandWordLayout := fun c =>
  ⟨toNat_packCommand c, Laws.Encoding.low_bits c, gridIn_field_packCommand c, randIn_field_packCommand c⟩

/-! Commands and command words are in bijection (R62, R63). -/

@[simp] theorem unpackCommand_packCommand (c : Command) : unpackCommand (packCommand c) = c := by
  rw [unpackCommand, Laws.Encoding.low_bits, gridIn_field_packCommand, randIn_field_packCommand, decodeOp_encodeOp]

/-- The three slices of a word, put side by side, are the word. -/
theorem append_fields (w : CommandWord) :
    w.extractLsb' 27 25 ++ w.extractLsb' 2 25 ++ w.extractLsb' 0 2 = w := by
  have hoperands : w.extractLsb' 27 25 ++ w.extractLsb' 2 25 = w.extractLsb' 2 50 :=
    BitVec.extractLsb'_append_extractLsb'_eq_extractLsb' rfl
  rw [hoperands]
  exact BitVec.extractLsb'_append_extractLsb' (w := 50) (len := 2)

@[simp] theorem packCommand_unpackCommand (w : CommandWord) : packCommand (unpackCommand w) = w := by
  rw [packCommand, unpackCommand, encodeOp_decodeOp]
  exact append_fields w

/-- Every command word, read as a number, is in range and decodes to its command. -/
theorem decodeWord_toNat (w : CommandWord) : decodeWord w.toNat = .ok (unpackCommand w) := by
  rw [decodeWord_of_lt w.isLt, BitVec.ofNat_toNat, BitVec.setWidth_eq]

/-- Settles O4: each field is read back where it was put, and the three fields are all of the word. -/
theorem commandWordRoundTrip : Obligations.CommandWordRoundTrip := by
  refine ⟨fun c => ⟨unpackCommand_packCommand c, ?_⟩, fun w => ⟨packCommand_unpackCommand w, decodeWord_toNat w⟩⟩
  rw [decodeWord_toNat, unpackCommand_packCommand]

/-! The rows of the opcode table (R61, R69). -/

/-- Settles O1: the codes are R61's, and the code of a row is the only value of `op` that decodes to it. -/
theorem opcodeAssignment : Obligations.OpcodeAssignment :=
  ⟨⟨rfl, rfl, rfl, rfl⟩, fun _ _ => decodeOp_eq_iff.trans eq_comm⟩

/-- Settles O2: the four words of the vectors, each evaluated by the decoder. -/
theorem commandWordsDecode : Obligations.CommandWordsDecode :=
  ⟨⟨rfl, rfl⟩, ⟨rfl, rfl⟩, ⟨rfl, rfl⟩, ⟨rfl, rfl⟩⟩

/-- A word decodes to a row exactly when its two low bits are the row's code. -/
theorem unpackCommand_instr_eq_iff {w : CommandWord} {i : Instr} :
    (unpackCommand w).instr = i ↔ w.toNat % 4 = (encodeOp i).toNat := by
  rw [unpackCommand, decodeOp_eq_iff, ← BitVec.toNat_inj, BitVec.extractLsb'_toNat, Nat.shiftRight_zero]

/-- The mask `0x3` of the table keeps the two low bits of `W`. -/
theorem and_mask_eq_iff {w : CommandWord} {op : OpBits} :
    w &&& 0x3#52 = op.setWidth 52 ↔ w.toNat % 4 = op.toNat := by
  have hmask : (w &&& 0x3#52).toNat = w.toNat % 4 := Nat.and_two_pow_sub_one_eq_mod w.toNat 2
  rw [← BitVec.toNat_inj, hmask, BitVec.toNat_setWidth_of_le (by decide)]

theorem unpackCommand_instr_eq_iff_mask {w : CommandWord} {i : Instr} :
    (unpackCommand w).instr = i ↔ w &&& 0x3#52 = (encodeOp i).setWidth 52 :=
  unpackCommand_instr_eq_iff.trans and_mask_eq_iff.symm

theorem toNat_unpackCommand_gridIn (w : CommandWord) :
    (unpackCommand w).gridIn.toNat = w.toNat / 4 % 2 ^ 25 := by
  rw [unpackCommand, BitVec.extractLsb'_toNat, Nat.shiftRight_eq_div_pow]

/-- `rand_in` is the highest field, so nothing stands above it to be cut off. -/
theorem toNat_unpackCommand_randIn (w : CommandWord) : (unpackCommand w).randIn.toNat = w.toNat / 2 ^ 27 := by
  have hw : w.toNat < 2 ^ 52 := w.isLt
  rw [unpackCommand, BitVec.extractLsb'_toNat, Nat.shiftRight_eq_div_pow]
  exact Nat.mod_eq_of_lt (by omega)

/-- Settles O5: match and mask compare the two low bits of `W`, which are all of `op`, and the operands are slices. -/
theorem tableMatchAndMask : Obligations.TableMatchAndMask := by
  refine ⟨fun _ _ => unpackCommand_instr_eq_iff_mask, fun op i => ?opAlone, fun w => ?operands⟩
  case opAlone =>
    have hmask : op &&& 0x3#2 = op := BitVec.and_allOnes
    rw [decodeOp_eq_iff, hmask]
  case operands => exact ⟨toNat_unpackCommand_gridIn w, toNat_unpackCommand_randIn w⟩

/-- A table word whose low bits are too wide for `W` decodes to nothing (log entry 4). -/
theorem decodeTableWord_of_ge {nbits w : Nat} (h : 2 ^ 52 ≤ tableBits nbits w) : decodeTableWord nbits w = none := by
  rw [decodeTableWord, decodeWord_of_ge h]

/-- In range the word decodes by its two low bits, and out of range both sides fail. -/
theorem decodeTableWord_eq_some_iff {nbits w : Nat} {i : Instr} :
    decodeTableWord nbits w = some i ↔
      tableBits nbits w < 2 ^ 52 ∧ tableBits nbits w % 4 = (encodeOp i).toNat := by
  rcases Nat.lt_or_ge (tableBits nbits w) (2 ^ 52) with hlt | hge
  · rw [decodeTableWord_of_ok (decodeWord_of_lt hlt), Option.some.injEq, unpackCommand_instr_eq_iff,
      BitVec.toNat_ofNat, Nat.mod_eq_of_lt hlt, and_iff_right hlt]
  · rw [decodeTableWord_of_ge hge]
    exact iff_of_false nofun fun h => Nat.not_lt.mpr hge h.1

/-- Settles O6: the low `nbits` bits of a table word are its remainder by `2 ^ nbits`. -/
theorem tableWordDecoding : Obligations.TableWordDecoding := fun _ _ _ => decodeTableWord_eq_some_iff

/-! The result word (R64). -/

theorem toNat_packResult (g : Grid) (d : Bool) : (packResult g d).toNat = g.toNat + 2 ^ 25 * d.toNat :=
  (toNat_append_eq_add (BitVec.ofBool d) g).trans (by rw [BitVec.toNat_ofBool])

theorem gridOut_field_packResult (g : Grid) (d : Bool) : (packResult g d).extractLsb' 0 25 = g :=
  BitVec.extractLsb'_append_eq_right

theorem done_field_packResult (g : Grid) (d : Bool) : (packResult g d).getLsbD 25 = d :=
  BitVec.getLsbD_append.trans (by simp)

/-- Settles O7: `Y` is the flag and the grid side by side. -/
theorem resultWordLayout : Obligations.ResultWordLayout := fun _ =>
  ⟨toNat_packResult _ _, gridOut_field_packResult _ _, done_field_packResult _ _⟩

/-! The assembler's lines (R67). -/

/-- A line that assembles to the reserved encoding is a `.word`: each mnemonic packs its own command. -/
theorem eq_word_of_assemble_reserved3 {l : AsmLine} (h : (unpackCommand (assemble l)).instr = .reserved3) :
    ∃ w : CommandWord, l = .word w := by
  cases l with
  | word w => exact ⟨w, rfl⟩
  | advance g | complement g | fill g r => simp [assemble] at h

/-- Settles O8: a mnemonic packs its command, which is read back, and the low bits of a reserved `.word` are its code. -/
theorem assemblerLines : Obligations.AssemblerLines := by
  refine ⟨fun _ => unpackCommand_packCommand _, fun _ => unpackCommand_packCommand _,
    fun _ _ => unpackCommand_packCommand _, fun _ => rfl, fun l h => ?_⟩
  obtain ⟨w, rfl⟩ := eq_word_of_assemble_reserved3 h
  exact ⟨w, rfl, unpackCommand_instr_eq_iff_mask.mp h⟩

/-! Operands a command does not read (R66). -/

/-- A command other than `FILL` does not read `rand_in`. -/
theorem exec_randIn_unused {i : Instr} (hi : i ≠ .fill) {s t : State} (h : exec i s = .next t) (r : Grid) :
    exec i { s with randIn := r } = .next { t with randIn := r } := by
  obtain ⟨g, hg, rfl⟩ := exec_next_iff.mp h
  have hr : resultOf i { s with randIn := r } = resultOf i s := by
    cases i with
    | fill => exact absurd rfl hi
    | advance | complement | reserved3 => rfl
  exact exec_next_iff.mpr ⟨g, hr.trans hg, rfl⟩

/-- All cells are dead, by their coordinates or by their bit indices (R22). -/
theorem allDead_iff {g : Grid} : AllDead g ↔ ∀ i, i < 25 → cellBit g i = false := by
  constructor
  · intro hdead i hi
    rw [← bitIndex_rowOf_colOf i]
    exact hdead (⟨rowOf i, rowOf_lt hi⟩, ⟨colOf i, colOf_lt i⟩)
  · intro hdead p
    exact hdead _ (bitIndex_lt p.1.isLt p.2.isLt)

theorem doneFlag_eq_decide_allDead (g : Grid) : doneFlag g = decide (AllDead g) := by
  rw [Bool.eq_iff_iff, doneFlag_eq_true, decide_eq_true_iff, allDead_iff]

/-- Settles O24: the result of `FILL` is `rand_in` alone, that of the others `grid_in` alone; `done` is that of
`grid_in` under each. -/
theorem unusedOperands : Obligations.UnusedOperands := by
  refine ⟨fun s t r h => exec_randIn_unused (by decide) h r, fun s t r h => exec_randIn_unused (by decide) h r,
    fun s t g h => ?_⟩
  obtain ⟨y, hy, rfl⟩ := exec_next_iff.mp h
  rw [← doneFlag_eq_decide_allDead]
  exact exec_next_iff.mpr ⟨y, hy, rfl⟩

end Sys2Proof.Proofs.Encoding
end

section
/-! SUPPORT. Proofs about the Life Engine: the neighbour count, the cell rule, the commands' results and `done`, and the
whole block against the hardware and against the evaluator by planes (40_life_engine.md). -/

namespace Sys2Proof.Proofs.LifeEngine

open Machine Laws StateRules Encoding

/-! Cells by their coordinates, and the neighbour lists (R22, R81). -/

/-- The bit index of the cell at `p` (R22). -/
def cellIndex (p : CellPos) : Nat := bitIndex p.1 p.2

theorem cellIndex_lt (p : CellPos) : cellIndex p < 25 := bitIndex_lt p.1.isLt p.2.isLt

theorem cellIndex_injective : Function.Injective cellIndex := by
  intro p q h
  refine Prod.ext (Fin.ext ?_) (Fin.ext ?_)
  · rw [← rowOf_bitIndex (r := p.1) p.2.isLt, ← rowOf_bitIndex (r := q.1) q.2.isLt]
    exact congrArg rowOf h
  · rw [← colOf_bitIndex (r := p.1) p.2.isLt, ← colOf_bitIndex (r := q.1) q.2.isLt]
    exact congrArg colOf h

/-- Every bit of a grid is a cell's. -/
theorem exists_cellIndex_eq {i : Nat} (hi : i < 25) : ∃ p, cellIndex p = i :=
  ⟨(⟨rowOf i, rowOf_lt hi⟩, ⟨colOf i, colOf_lt i⟩), bitIndex_rowOf_colOf i⟩

/-- Two grids whose cells are equal are equal (R22). -/
theorem grid_ext_cellAt {g g' : Grid} (h : ∀ p, cellAt g p = cellAt g' p) : g = g' := by
  refine grid_ext fun i hi => ?_
  obtain ⟨p, rfl⟩ := exists_cellIndex_eq hi
  exact h p

/-- The list of a cell's neighbours holds the cells R81's set holds, and no other. -/
theorem cellIndex_mem_neighbours_iff :
    ∀ p q : CellPos, cellIndex q ∈ neighbours (cellIndex p) ↔ Adjacent p q := by decide

theorem adjacent_comm (p q : CellPos) : Adjacent p q ↔ Adjacent q p := by
  unfold Adjacent
  rw [ne_comm]
  tauto

/-- Settles O10: the lists hold R81's set, whose conditions read the same from both cells, and are the table's. -/
theorem neighbourTable : Obligations.NeighbourTable :=
  ⟨cellIndex_mem_neighbours_iff, adjacent_comm, by decide⟩

/-- The 8 positions of R81's square around a cell, row by row. -/
def squareOffsets : List (Int × Int) := [(-1, -1), (-1, 0), (-1, 1), (0, -1), (0, 1), (1, -1), (1, 0), (1, 1)]

/-- The neighbours are what the 8 positions around a cell hold, where they lie inside the grid. -/
theorem neighbours_eq_filterMap :
    ∀ i, i < 25 → neighbours i = squareOffsets.filterMap fun d => neighbourAt i d.1 d.2 := by decide

theorem length_neighbours_le {i : Nat} (hi : i < 25) : (neighbours i).length ≤ 8 := by
  rw [neighbours_eq_filterMap i hi]
  exact List.length_filterMap_le _ _

/-! The neighbour count (R82). -/

/-- The live neighbours in the list are, by their coordinates, the live cells of R81's set. -/
theorem toFinset_filter_neighbours (g : Grid) (p : CellPos) :
    ((neighbours (cellIndex p)).filter (cellBit g)).toFinset =
      (Finset.univ.filter fun q => Adjacent p q ∧ cellAt g q = true).image cellIndex := by
  ext j
  simp only [List.mem_toFinset, List.mem_filter, Finset.mem_image, Finset.mem_filter_univ]
  constructor
  · rintro ⟨hj, hlive⟩
    obtain ⟨q, rfl⟩ := exists_cellIndex_eq (neighbours_lt _ (cellIndex_lt p) j hj)
    exact ⟨q, ⟨(cellIndex_mem_neighbours_iff p q).mp hj, hlive⟩, rfl⟩
  · rintro ⟨q, ⟨hadj, hlive⟩, rfl⟩
    exact ⟨(cellIndex_mem_neighbours_iff p q).mpr hadj, hlive⟩

/-- The list has no cell twice, so its live cells are as many as those of R81's set. -/
theorem countP_neighbours (g : Grid) (p : CellPos) :
    (neighbours (cellIndex p)).countP (cellBit g) = liveNeighbours g p := by
  have hnodup := (neighbours_nodup _ (cellIndex_lt p)).filter (cellBit g)
  rw [List.countP_eq_length_filter, ← List.toFinset_card_of_nodup hnodup, toFinset_filter_neighbours,
    Finset.card_image_of_injective _ cellIndex_injective, liveNeighbours]

theorem neighbourCount_eq_liveNeighbours (g : Grid) (p : CellPos) :
    neighbourCount g (cellIndex p) = liveNeighbours g p :=
  (neighbourCount_eq_countP g _).trans (countP_neighbours g p)

theorem liveNeighbours_le_length (g : Grid) (p : CellPos) :
    liveNeighbours g p ≤ (neighbours (cellIndex p)).length :=
  countP_neighbours g p ▸ List.countP_le_length

/-- A 4-bit sum of at most 15 bits is the number of those set. -/
theorem toNat_sum_bits {α : Type} (b : α → Bool) :
    ∀ l : List α, l.length < 16 → (l.map fun j => (BitVec.ofBool (b j)).setWidth 4).sum.toNat = l.countP b
  | [], _ => rfl
  | j :: l, hl => by
    have hl' : l.length + 1 < 16 := hl
    have hcount : l.countP b ≤ l.length := List.countP_le_length
    rw [List.map_cons, List.sum_cons, BitVec.toNat_add, toNat_sum_bits b l (by omega), List.countP_cons]
    cases b j <;> simp <;> omega

/-- Settles O11: the list is R81's set without repetition, and its at most 8 bits do not overflow a 4-bit sum. -/
theorem neighbourCountExact : Obligations.NeighbourCountExact := by
  intro g p
  have hlength : (neighbours (bitIndex p.1 p.2)).length ≤ 8 := length_neighbours_le (cellIndex_lt p)
  exact ⟨neighbourCount_eq_liveNeighbours g p, liveNeighbours_le_length g p, hlength,
    (toNat_sum_bits _ _ (by omega)).trans (countP_neighbours g p)⟩

/-- A count reads the neighbours alone. -/
theorem liveNeighbours_congr {g g' : Grid} {p : CellPos}
    (h : ∀ q, Adjacent p q → cellAt g q = cellAt g' q) : liveNeighbours g p = liveNeighbours g' p :=
  congrArg Finset.card (Finset.filter_congr fun q _ => and_congr_right fun hadj => by rw [h q hadj])

/-! The cell rule (R83). -/

theorem cellAt_advanceGrid (g : Grid) (p : CellPos) :
    cellAt (advanceGrid g) p = nextCell (cellAt g p) (liveNeighbours g p) := by
  rw [← neighbourCount_eq_liveNeighbours]
  exact cellBit_advanceGrid g (cellIndex_lt p)

theorem length_neighbours_corner :
    ∀ p : CellPos, (p.1 = 0 ∨ p.1 = 4) ∧ (p.2 = 0 ∨ p.2 = 4) → (neighbours (cellIndex p)).length ≤ 3 := by decide

theorem length_neighbours_edge :
    ∀ p : CellPos, p.1 = 0 ∨ p.1 = 4 ∨ p.2 = 0 ∨ p.2 = 4 → (neighbours (cellIndex p)).length ≤ 5 := by decide

/-- Settles O12: the count of a cell is bounded by the number of its neighbours, 3 at a corner and 5 at an edge. -/
theorem cellRule : Obligations.CellRule :=
  ⟨fun _ _ => nextCell_eq_true, by decide, by decide, cellAt_advanceGrid, fun g p =>
    ⟨fun hcorner => (liveNeighbours_le_length g p).trans (length_neighbours_corner p hcorner),
     fun hedge => (liveNeighbours_le_length g p).trans (length_neighbours_edge p hedge)⟩⟩

/-- The model's next generation is the one grid that is a next generation (R83, R90). -/
theorem nextGeneration_iff {g g' : Grid} : NextGeneration g g' ↔ g' = advanceGrid g := by
  have hcell (p : CellPos) : cellAt g' p = cellAt (advanceGrid g) p ↔
      (cellAt g' p = true ↔ liveNeighbours g p = 3 ∨ (cellAt g p = true ∧ liveNeighbours g p = 2)) := by
    rw [cellAt_advanceGrid, Bool.eq_iff_iff, nextCell_eq_true]
  exact ⟨fun h => grid_ext_cellAt fun p => (hcell p).mpr (h p), fun h p => (hcell p).mp (by rw [h])⟩

theorem complementGrid_iff {g g' : Grid} : (∀ p, cellAt g' p = !cellAt g p) ↔ g' = complementGrid g := by
  have hcell (p : CellPos) : cellAt (complementGrid g) p = !cellAt g p :=
    cellBit_complementGrid g (cellIndex_lt p)
  exact ⟨fun h => grid_ext_cellAt fun p => (h p).trans (hcell p).symm, fun h p => h ▸ hcell p⟩

theorem cellAt_eq_iff {g g' : Grid} : (∀ p, cellAt g' p = cellAt g p) ↔ g' = g :=
  ⟨grid_ext_cellAt, fun h p => by rw [h]⟩

/-! What each command answers (R85, R87, R89, R90). -/

theorem doneFlag_iff_allDead (g : Grid) : doneFlag g = true ↔ AllDead g := doneFlag_eq_true.trans allDead_iff.symm

/-- A command with a result completes with it, with the flag of `grid_in`, and with the inputs as presented. -/
theorem exec_of_resultOf {i : Instr} {s : State} {g : Grid} (h : resultOf i s = some g) :
    exec i s = .next { s with gridOut := g, done := doneFlag s.gridIn } :=
  exec_next_iff.mpr ⟨g, h, rfl⟩

theorem exec_advance (s : State) :
    exec .advance s = .next { s with gridOut := advanceGrid s.gridIn, done := doneFlag s.gridIn } :=
  exec_of_resultOf rfl

theorem exec_complement (s : State) :
    exec .complement s = .next { s with gridOut := complementGrid s.gridIn, done := doneFlag s.gridIn } :=
  exec_of_resultOf rfl

theorem exec_fill (s : State) :
    exec .fill s = .next { s with gridOut := s.randIn, done := doneFlag s.gridIn } :=
  exec_of_resultOf rfl

/-- The mask `M25` keeps all 25 bits of a grid (R87). -/
theorem complementGrid_eq_and_mask (g : Grid) : complementGrid g = ~~~g &&& 0x1FFFFFF#25 :=
  BitVec.and_allOnes.symm

/-- Settles O13: the result of `ADVANCE` is the next generation, cell by cell. -/
theorem advanceCompletes : Obligations.AdvanceCompletes := fun s =>
  ⟨_, exec_advance s, nextGeneration_iff.mpr rfl, doneFlag_iff_allDead _, rfl, rfl, rfl⟩

/-- Settles O14: the complement of a 25-bit word inverts each cell, and the mask takes nothing from it. -/
theorem complementCompletes : Obligations.ComplementCompletes := fun s =>
  ⟨_, exec_complement s, complementGrid_eq_and_mask _, complementGrid_iff.mpr rfl, doneFlag_iff_allDead _,
    rfl, rfl, rfl⟩

/-- Settles O15: the result of `FILL` is `rand_in`, and the flag is that of `grid_in`. -/
theorem fillCompletes : Obligations.FillCompletes := fun s =>
  ⟨_, exec_fill s, rfl, cellAt_eq_iff.mpr rfl, doneFlag_iff_allDead _, rfl, rfl, rfl⟩

/-- Settles O18: the complement of a word's complement is the word. -/
theorem complementInvolution : Obligations.ComplementInvolution := fun s =>
  ⟨_, _, exec_complement s, exec_complement _, BitVec.not_not⟩

/-- A step with the code of a command on `op` is that command. -/
theorem step_of_op {s : State} {i : Instr} (hop : s.op = encodeOp i) : step s = exec i s := by
  rw [step_eq_exec, hop, decodeOp_encodeOp]

theorem step_of_reserved {s : State} (hop : s.op = 0b11#2) : step s = .refused (.reservedOp s.op) := by
  rw [step_of_op (i := .reserved3) hop, hop]
  exact exec_eq .reserved3 s

/-- Settles O28: `op` selects the command, and each command answers its result and the flag of `grid_in`. -/
theorem kernelFunction : Obligations.KernelFunction := by
  intro s
  refine ⟨doneFlag s.gridIn, doneFlag_iff_allDead _, fun hop => ?advance, fun hop => ?complement, fun hop => ?fill,
    step_of_reserved⟩
  case advance =>
    exact ⟨advanceGrid s.gridIn, nextGeneration_iff.mpr rfl, (step_of_op (i := .advance) hop).trans (exec_advance s)⟩
  case complement =>
    rw [← complementGrid_eq_and_mask]
    exact (step_of_op (i := .complement) hop).trans (exec_complement s)
  case fill => exact (step_of_op (i := .fill) hop).trans (exec_fill s)

/-! What the hardware may drive (R89, R96, R121). -/

/-- The hardware drives the flag of `grid_in`, and the command's result where there is one. -/
theorem hardwareAllows_iff {s : State} {o : Outputs} :
    HardwareAllows s o ↔ o.done = doneFlag s.gridIn ∧ ∀ g, resultOf (sampleInstr s) s = some g → o.gridOut = g := by
  rw [Bool.eq_iff_iff, doneFlag_iff_allDead, HardwareAllows]
  refine and_congr_right fun _ => ?_
  cases sampleInstr s with
  | advance => simpa [resultOf] using nextGeneration_iff
  | complement => simpa [resultOf] using complementGrid_iff
  | fill => simpa [resultOf] using cellAt_eq_iff
  | reserved3 => simp [resultOf]

/-- Where the command has a result, the hardware drives that and the flag, and nothing else. -/
theorem hardwareAllows_iff_of_resultOf {s : State} {o : Outputs} {g : Grid}
    (hg : resultOf (sampleInstr s) s = some g) : HardwareAllows s o ↔ o = ⟨g, doneFlag s.gridIn⟩ := by
  obtain ⟨y, d⟩ := o
  simp [hardwareAllows_iff, hg, and_comm, eq_comm]

/-- Where it has none, the hardware may drive any grid with the flag. -/
theorem hardwareAllows_of_resultOf_eq_none {s : State} (hs : resultOf (sampleInstr s) s = none) (g : Grid) :
    HardwareAllows s ⟨g, doneFlag s.gridIn⟩ :=
  hardwareAllows_iff.mpr ⟨rfl, by simp [hs]⟩

/-- The hardware always has outputs to drive. -/
theorem exists_hardwareAllows (s : State) : ∃ o, HardwareAllows s o := by
  cases hs : resultOf (sampleInstr s) s with
  | some g => exact ⟨_, (hardwareAllows_iff_of_resultOf hs).mpr rfl⟩
  | none => exact ⟨_, hardwareAllows_of_resultOf_eq_none hs 0#25⟩

/-- A command that completes drives the flag of `grid_in`. -/
theorem done_of_exec_next {i : Instr} {s t : State} (h : exec i s = .next t) : t.done = doneFlag s.gridIn := by
  obtain ⟨g, -, rfl⟩ := exec_next_iff.mp h
  rfl

/-- Settles O17: the flag is read from `grid_in`, so a grid that has just died shows in the next evaluation. -/
theorem doneUnderEveryCommand : Obligations.DoneUnderEveryCommand := by
  refine ⟨fun i s t h => ?commands, fun s => ?hardware, fun s t u hlive ht hdead hu => ?next⟩
  case commands =>
    rw [done_of_exec_next h]
    exact doneFlag_iff_allDead _
  case hardware =>
    obtain ⟨o, ho⟩ := exists_hardwareAllows s
    obtain ⟨hdone, -⟩ := hardwareAllows_iff.mp ho
    exact ⟨o, ho, fun o' ho' => ⟨(hardwareAllows_iff.mp ho').1.trans hdone.symm, ho'.1⟩⟩
  case next =>
    rw [← doneFlag_iff_allDead, Bool.not_eq_true] at hlive
    exact ⟨(done_of_exec_next ht).trans hlive, (done_of_exec_next hu).trans ((doneFlag_iff_allDead _).mpr hdead)⟩

/-- The commands with a result are the well-formed ones. -/
theorem isSome_resultOf (i : Instr) (s : State) : (resultOf i s).isSome = i.wellFormed := by cases i <;> rfl

theorem wellFormed_eq_false_iff {i : Instr} : i.wellFormed = false ↔ i = .reserved3 := by
  cases i <;> simp [Instr.wellFormed]

/-- The one value of `op` a host may not issue is the reserved encoding. -/
theorem op_of_not_hostMayIssue {s : State} (h : HostMayIssue s = false) : s.op = 0b11#2 :=
  decodeOp_eq_iff.mp (wellFormed_eq_false_iff.mp h)

/-- Settles O32: a step answers what the hardware is bound to drive, and refuses where its grid is open. -/
theorem stepMatchesHardware : Obligations.StepMatchesHardware := by
  refine ⟨fun s hmay => ?issued, fun s hmay => ?refused⟩
  case issued =>
    obtain ⟨g, hg⟩ := Option.isSome_iff_exists.mp ((isSome_resultOf (sampleInstr s) s).trans hmay)
    exact ⟨_, exec_of_resultOf hg, fun o => hardwareAllows_iff_of_resultOf hg⟩
  case refused =>
    have hop := op_of_not_hostMayIssue hmay
    have hnone : resultOf (sampleInstr s) s = none := by
      rw [sampleInstr, hop]
      rfl
    exact ⟨step_of_reserved hop, fun g => ⟨_, hardwareAllows_of_resultOf_eq_none hnone g, rfl⟩⟩

/-! Dead grids and isolated cells (R91, R92). -/

theorem liveNeighbours_of_allDead {g : Grid} (hdead : AllDead g) (p : CellPos) : liveNeighbours g p = 0 :=
  Finset.card_eq_zero.mpr (Finset.filter_eq_empty_iff.mpr fun q _ hq => by simp [hdead q] at hq)

/-- Settles O19: a dead cell with no live neighbours stays dead. -/
theorem deadGridStaysDead : Obligations.DeadGridStaysDead := by
  intro s hdead
  have hnext : AllDead (advanceGrid s.gridIn) := fun p => by
    rw [cellAt_advanceGrid, hdead p, liveNeighbours_of_allDead hdead]
    rfl
  exact ⟨_, exec_advance s, grid_ext_cellAt fun p => (hnext p).trans (hdead p).symm, hnext,
    liveNeighbours_of_allDead hdead⟩

/-- With one live cell in the grid its neighbours have a count of 1, and every other cell, itself included, one of 0. -/
theorem liveNeighbours_of_single {g : Grid} {p : CellPos} (hp : ∀ q, cellAt g q = decide (q = p)) (q : CellPos) :
    liveNeighbours g q = if Adjacent p q then 1 else 0 := by
  have hlive (x : CellPos) : Adjacent q x ∧ cellAt g x = true ↔ x = p ∧ Adjacent p q := by
    rw [hp, decide_eq_true_iff, and_comm, adjacent_comm]
    exact and_congr_right fun hx => by rw [hx]
  split
  case isTrue hadj =>
    refine Finset.card_eq_one.mpr ⟨p, Finset.ext fun x => ?_⟩
    rw [Finset.mem_filter_univ, Finset.mem_singleton, hlive, and_iff_left hadj]
  case isFalse hadj =>
    exact Finset.card_eq_zero.mpr (Finset.filter_eq_empty_iff.mpr fun x _ hx => hadj ((hlive x).mp hx).2)

/-- Below a count of 2 every cell is dead in the next generation: it dies of underpopulation or is not born. -/
theorem nextCell_of_lt_two {a : Bool} {n : Nat} (hn : n < 2) : nextCell a n = false := by
  rw [← Bool.not_eq_true, nextCell_eq_true]
  omega

/-- Settles O20: no cell has the 2 live neighbours that keep it alive, nor the 3 that a birth takes. -/
theorem isolatedCellDies : Obligations.IsolatedCellDies := by
  refine ⟨fun s p _ hcount => ⟨_, exec_advance s, ?isolated⟩,
    fun s p hp => ⟨_, exec_advance s, fun q => ?allDead, fun q hadj => ?neighbour⟩⟩
  case isolated => rw [cellAt_advanceGrid, nextCell_of_lt_two (by omega)]
  case allDead =>
    rw [cellAt_advanceGrid, nextCell_of_lt_two]
    rw [liveNeighbours_of_single hp]
    split <;> decide
  case neighbour => rw [liveNeighbours_of_single hp, if_pos hadj]

/-! The 2x2 block (R93). -/

/-- `x` is one of the two coordinates `r` and `r + 1` along one axis. -/
abbrev InSpan (r : Fin 4) (x : Fin 5) : Prop := (x : Nat) = r ∨ (x : Nat) = r + 1

/-- Along one axis, the coordinates of a span that lie in the square of R81 around `x`, `x` included. -/
def spanNear (r : Fin 4) (x : Fin 5) : Finset (Fin 5) :=
  Finset.univ.filter fun y => ((y : Nat) ≤ x + 1 ∧ (x : Nat) ≤ y + 1) ∧ InSpan r y

theorem card_spanNear_of_inSpan : ∀ r x, InSpan r x → (spanNear r x).card = 2 := by decide

theorem card_spanNear_of_not_inSpan : ∀ r x, ¬ InSpan r x → (spanNear r x).card ≤ 1 := by decide

theorem card_spanNear_le : ∀ r x, (spanNear r x).card ≤ 2 := by decide

section

variable {g : Grid} {r c : Fin 4} (hblock : ∀ q, cellAt g q = true ↔ InSpan r q.1 ∧ InSpan c q.2)

include hblock

/-- The live neighbours of a cell are the part of the block in the square around it, without the cell itself. -/
theorem liveNeighbours_of_block (q : CellPos) :
    liveNeighbours g q = ((spanNear r q.1 ×ˢ spanNear c q.2).erase q).card := by
  refine congrArg Finset.card (Finset.ext fun x => ?_)
  simp only [Finset.mem_filter_univ, Finset.mem_erase, Finset.mem_product, spanNear, hblock, Adjacent]
  tauto

theorem liveNeighbours_of_block_live {q : CellPos} (hq : cellAt g q = true) : liveNeighbours g q = 3 := by
  obtain ⟨hrow, hcol⟩ := (hblock q).mp hq
  have hmem : q ∈ spanNear r q.1 ×ˢ spanNear c q.2 := by simp [spanNear, hrow, hcol]
  rw [liveNeighbours_of_block hblock, Finset.card_erase_of_mem hmem, Finset.card_product,
    card_spanNear_of_inSpan r q.1 hrow, card_spanNear_of_inSpan c q.2 hcol]

theorem liveNeighbours_of_block_dead {q : CellPos} (hq : cellAt g q = false) : liveNeighbours g q ≤ 2 := by
  have hout : ¬ InSpan r q.1 ∨ ¬ InSpan c q.2 := by
    rw [← not_and_or, ← hblock, hq]
    decide
  rw [liveNeighbours_of_block hblock]
  refine (Finset.card_erase_le).trans ?_
  rw [Finset.card_product]
  rcases hout with hrow | hcol
  · exact Nat.mul_le_mul (card_spanNear_of_not_inSpan r q.1 hrow) (card_spanNear_le c q.2)
  · exact Nat.mul_le_mul (card_spanNear_le r q.1) (card_spanNear_of_not_inSpan c q.2 hcol)

end

/-- A grid stays as it is where each live cell has a count of 3 and each dead cell a count of at most 2. -/
theorem advanceGrid_eq_self {g : Grid} (hlive : ∀ q, cellAt g q = true → liveNeighbours g q = 3)
    (hdead : ∀ q, cellAt g q = false → liveNeighbours g q ≤ 2) : advanceGrid g = g := by
  refine grid_ext_cellAt fun q => ?_
  rw [cellAt_advanceGrid]
  cases hq : cellAt g q with
  | true => rw [hlive q hq]; rfl
  | false =>
    have hcount := hdead q hq
    simp [nextCell, show liveNeighbours g q ≠ 3 by omega]

/-- Settles O21: a cell sees two rows and two columns of the block if it is in it, and else at most two cells of it. -/
theorem blockIsStill : Obligations.BlockIsStill := by
  intro s r c hs
  have hblock (q : CellPos) : cellAt s.gridIn q = true ↔ InSpan r q.1 ∧ InSpan c q.2 := by simp [hs, InSpan]
  have hlive (q : CellPos) := liveNeighbours_of_block_live hblock (q := q)
  have hdead (q : CellPos) := liveNeighbours_of_block_dead hblock (q := q)
  exact ⟨_, exec_advance s, advanceGrid_eq_self hlive hdead, fun q => ⟨hlive q, hdead q⟩⟩

/-! Locality, and the edges (R84, R94, R95). -/

theorem cellAt_advanceGrid_congr {g g' : Grid} {p : CellPos} (hself : cellAt g p = cellAt g' p)
    (hadj : ∀ q, Adjacent p q → cellAt g q = cellAt g' q) :
    cellAt (advanceGrid g) p = cellAt (advanceGrid g') p := by
  rw [cellAt_advanceGrid, cellAt_advanceGrid, hself, liveNeighbours_congr hadj]

theorem gridOut_of_exec_advance {s t : State} (h : exec .advance s = .next t) : t.gridOut = advanceGrid s.gridIn := by
  obtain ⟨g, hg, rfl⟩ := exec_next_iff.mp h
  exact (Option.some.inj hg).symm

/-- Settles O23: the rule reads the cell and its count, and the count reads the neighbours. -/
theorem advanceIsLocal : Obligations.AdvanceIsLocal := by
  intro s s' t t' p hself hadj ht ht'
  rw [gridOut_of_exec_advance ht, gridOut_of_exec_advance ht']
  exact cellAt_advanceGrid_congr hself hadj

section

variable {g g' : Grid} {p : CellPos} {k : Fin 5}

/-- A row two or more away from a cell holds no neighbour of it, so grids that differ there only agree on its result. -/
theorem cellAt_advanceGrid_of_far_row (h : ∀ q : CellPos, q.1 ≠ k → cellAt g q = cellAt g' q)
    (hp : (p.1 : Nat) + 1 < k ∨ (k : Nat) + 1 < p.1) : cellAt (advanceGrid g) p = cellAt (advanceGrid g') p := by
  refine cellAt_advanceGrid_congr (h p (by omega)) fun q ⟨_, hle, hge, _⟩ => h q ?_
  omega

/-- The same of a column two or more away. -/
theorem cellAt_advanceGrid_of_far_col (h : ∀ q : CellPos, q.2 ≠ k → cellAt g q = cellAt g' q)
    (hp : (p.2 : Nat) + 1 < k ∨ (k : Nat) + 1 < p.2) : cellAt (advanceGrid g) p = cellAt (advanceGrid g') p := by
  refine cellAt_advanceGrid_congr (h p (by omega)) fun q ⟨_, _, _, hle, hge⟩ => h q ?_
  omega

end

/-- Settles O22: an edge is four cells away from the opposite edge, so a change of it is not read there. -/
theorem edgesDoNotWrap : Obligations.EdgesDoNotWrap := by
  refine ⟨fun s s' t t' ht ht' => ?edges, fun s hs => ?line⟩
  case edges =>
    have hbelow : 0 + 1 < 4 := by decide
    rw [gridOut_of_exec_advance ht, gridOut_of_exec_advance ht']
    refine ⟨fun h _ => ?_, fun h _ => ?_, fun h _ => ?_, fun h _ => ?_⟩
    · exact cellAt_advanceGrid_of_far_col h (.inl hbelow)
    · exact cellAt_advanceGrid_of_far_col h (.inr hbelow)
    · exact cellAt_advanceGrid_of_far_row h (.inl hbelow)
    · exact cellAt_advanceGrid_of_far_row h (.inr hbelow)
  case line =>
    have hline : advanceGrid 0x0008420#25 = 0x0000C00#25 := by decide
    have hcell : cellAt 0x0000C00#25 (2, 4) = false := by decide
    rw [exec_advance, hs, hline]
    exact ⟨_, rfl, rfl, hcell⟩

/-! The evaluator by planes (R82, R90, R95). -/

/-- The number that lane `i` of the four digit planes holds. -/
def laneCount (n : LaneCounts) (i : Nat) : Nat :=
  (cellBit n.ones i).toNat + 2 * (cellBit n.twos i).toNat + 4 * (cellBit n.fours i).toNat +
    8 * (cellBit n.eights i).toNat

/-- A 4-bit ripple increment by `p` adds `p`, unless all four digits are set. -/
theorem rippleIncrement_value : ∀ a b c d p : Bool, a.toNat + 2 * b.toNat + 4 * c.toNat + 8 * d.toNat < 15 →
    (a ^^ p).toNat + 2 * (b ^^ (a && p)).toNat + 4 * (c ^^ (b && a && p)).toNat +
      8 * (d ^^ (c && b && a && p)).toNat = a.toNat + 2 * b.toNat + 4 * c.toNat + 8 * d.toNat + p.toNat := by
  decide

theorem laneCount_addPlane {n : LaneCounts} {i : Nat} (p : Grid) (hn : laneCount n i < 15) :
    laneCount (addPlane n p) i = laneCount n i + (cellBit p i).toNat := by
  simpa only [laneCount, addPlane, cellBit, BitVec.getLsbD_xor, BitVec.getLsbD_and] using
    rippleIncrement_value _ _ _ _ (cellBit p i) hn

/-- Adding planes adds to each lane the number of planes whose bit is set there, as long as 4 bits hold it. -/
theorem laneCount_foldl_addPlane (i : Nat) : ∀ (ps : List Grid) (n : LaneCounts), laneCount n i + ps.length ≤ 15 →
    laneCount (ps.foldl addPlane n) i = laneCount n i + ps.countP (cellBit · i)
  | [], _, _ => rfl
  | p :: ps, n, hn => by
    rw [List.length_cons] at hn
    have hstep := laneCount_addPlane p (n := n) (i := i) (by omega)
    have hbit := Bool.toNat_le (cellBit p i)
    rw [List.foldl_cons, laneCount_foldl_addPlane i ps _ (by omega), hstep, List.countP_cons, Nat.add_assoc,
      Nat.add_comm (List.countP _ _)]
    cases cellBit p i <;> rfl

/-- The lane of the final masks is the cell rule at the lane's count (R83). -/
theorem ruleOnDigits_eq_nextCell : ∀ a b c d x : Bool, (b && !c && !d && (a || x)) =
    nextCell x (a.toNat + 2 * b.toNat + 4 * c.toNat + 8 * d.toNat) := by
  decide

theorem cellBit_advancePlanes (g : Grid) {i : Nat} (hi : i < 25) :
    cellBit (advancePlanes g) i = nextCell (cellBit g i) (laneCount (planeCounts g) i) := by
  rw [laneCount, ← ruleOnDigits_eq_nextCell]
  simp [advancePlanes, cellBit, hi]

/-- The planes of left shifts: cell `i` gets the cell `k` bits below it. -/
theorem cellBit_shiftLeft (g : Grid) (k : Nat) {i : Nat} (hi : i < 25) :
    cellBit (g <<< k) i = (decide (k ≤ i) && cellBit g (i - k)) := by
  rw [cellBit, BitVec.getLsbD_shiftLeft, decide_eq_true hi, Bool.true_and, cellBit, ← decide_not]
  simp only [Nat.not_lt]

/-- The planes of right shifts: cell `i` gets the cell `k` bits above it, dead outside the grid. -/
theorem cellBit_shiftRight (g : Grid) (k i : Nat) :
    cellBit (g >>> k) i = (decide (i + k < 25) && cellBit g (i + k)) := by
  rw [cellBit, BitVec.getLsbD_ushiftRight, Nat.add_comm k i]
  rcases Nat.lt_or_ge (i + k) 25 with hlt | hge
  · rw [decide_eq_true hlt, Bool.true_and, cellBit]
  · rw [cellBit_of_ge g hge, Bool.and_false]
    exact cellBit_of_ge g hge

theorem cellBit_and_not (g m : Grid) {i : Nat} (hi : i < 25) :
    cellBit (g &&& ~~~m) i = (cellBit g i && !cellBit m i) := by
  simp [cellBit, hi]

/-- The neighbour position at each of the 8 offsets, as a distance between bit indices and a column it cannot have. -/
theorem map_neighbourAt_squareOffsets : ∀ i, i < 25 →
    (squareOffsets.map fun d => neighbourAt i d.1 d.2) =
      [if 6 ≤ i ∧ cellBit firstColumn i = false then some (i - 6) else none,
       if 5 ≤ i then some (i - 5) else none,
       if 4 ≤ i ∧ cellBit lastColumn i = false then some (i - 4) else none,
       if 1 ≤ i ∧ cellBit firstColumn i = false then some (i - 1) else none,
       if i + 1 < 25 ∧ cellBit lastColumn i = false then some (i + 1) else none,
       if i + 4 < 25 ∧ cellBit firstColumn i = false then some (i + 4) else none,
       if i + 5 < 25 then some (i + 5) else none,
       if i + 6 < 25 ∧ cellBit lastColumn i = false then some (i + 6) else none] := by
  decide

/-- The state of the neighbour at a position of R81's square, dead where the position is outside the grid (R80). -/
def neighbourState (g : Grid) (pos : Option Nat) : Bool := (pos.map (cellBit g)).getD false

theorem neighbourState_ite (g : Grid) (c : Prop) [Decidable c] (j : Nat) :
    neighbourState g (if c then some j else none) = (decide c && cellBit g j) := by
  split <;> simp_all [neighbourState]

/-- The bits of the 8 planes in lane `i` are the states of the 8 neighbour positions of cell `i`. -/
theorem map_cellBit_neighbourPlanes (g : Grid) {i : Nat} (hi : i < 25) :
    (neighbourPlanes g).map (cellBit · i) =
      (squareOffsets.map fun d => neighbourAt i d.1 d.2).map (neighbourState g) := by
  rw [map_neighbourAt_squareOffsets i hi]
  simp only [neighbourPlanes, List.map_cons, List.map_nil, neighbourState_ite, cellBit_and_not _ _ hi,
    cellBit_shiftLeft _ _ hi, cellBit_shiftRight, Bool.decide_and, Bool.decide_eq_false]
  ac_rfl

/-- The planes set in lane `i` are as many as cell `i` has live neighbours. -/
theorem countP_neighbourPlanes (g : Grid) {i : Nat} (hi : i < 25) :
    (neighbourPlanes g).countP (cellBit · i) = neighbourCount g i := by
  calc (neighbourPlanes g).countP (cellBit · i)
      = ((neighbourPlanes g).map (cellBit · i)).countP id := List.countP_map.symm
    _ = squareOffsets.countP fun d => neighbourState g (neighbourAt i d.1 d.2) := by
        rw [map_cellBit_neighbourPlanes g hi, List.countP_map, List.countP_map]
        rfl
    _ = (squareOffsets.filterMap fun d => neighbourAt i d.1 d.2).countP (cellBit g) := List.countP_filterMap.symm
    _ = neighbourCount g i := by rw [neighbourCount_eq_countP, neighbours_eq_filterMap i hi]

theorem laneCount_planeCounts (g : Grid) {i : Nat} (hi : i < 25) :
    laneCount (planeCounts g) i = neighbourCount g i := by
  have hzero : laneCount ⟨0, 0, 0, 0⟩ i = 0 := by simp [laneCount, cellBit]
  have hlength : (neighbourPlanes g).length = 8 := rfl
  rw [planeCounts, laneCount_foldl_addPlane i _ _ (by omega), hzero, Nat.zero_add, countP_neighbourPlanes g hi]

theorem advancePlanes_eq_advanceGrid (g : Grid) : advancePlanes g = advanceGrid g :=
  grid_ext fun i hi => by
    rw [cellBit_advancePlanes g hi, laneCount_planeCounts g hi, cellBit_advanceGrid g hi]

/-- Settles O26: lane by lane the planes are the neighbours, their sum the count, and the final masks the rule. -/
theorem planesEqualAdvance : Obligations.PlanesEqualAdvance := fun s => by
  rw [advancePlanes_eq_advanceGrid, ← doneFlag_eq_decide_allDead]
  exact exec_advance s

end Sys2Proof.Proofs.LifeEngine
end

section
/-! SUPPORT. Proofs about what completes, what is refused and that nothing faults: the commands, the reserved encoding,
and a program of the reference harness (60_exceptions.md; R160). -/

namespace Sys2Proof.Proofs.Exceptions

open Machine Laws LifeEngine

/-! The commands never fail (R120). -/

/-- A well-formed instruction has a result in every state. -/
theorem exists_resultOf {i : Instr} (hi : i.wellFormed = true) (s : State) : ∃ g, resultOf i s = some g :=
  Option.isSome_iff_exists.mp ((isSome_resultOf i s).trans hi)

theorem exec_ne_fault (i : Instr) (s : State) (f : Fault) : exec i s ≠ .fault f := by
  rw [exec_eq]
  cases resultOf i s with
  | some g => exact nofun
  | none => exact nofun

/-- Settles O29: a command completes with its result, and where there is none `exec` refuses. -/
theorem commandsNeverFail : Obligations.CommandsNeverFail := by
  refine ⟨fun i s hi => ?completes, exec_ne_fault⟩
  obtain ⟨g, hg⟩ := exists_resultOf hi s
  exact ⟨_, exec_of_resultOf hg⟩

/-! The reserved encoding (R121). -/

theorem exec_reserved3 (s : State) : exec .reserved3 s = .refused (.reservedOp 0b11#2) := exec_eq .reserved3 s

/-- With the reserved encoding on `op` no result is bound to `grid_out`. -/
theorem resultOf_of_reserved {s : State} (hop : s.op = 0b11#2) : resultOf (sampleInstr s) s = none := by
  rw [sampleInstr, hop]
  rfl

/-- Under the reserved encoding the hardware is bound to drive `done`, and nothing else. -/
theorem hardwareAllows_iff_of_reserved {s : State} {o : Outputs} (hop : s.op = 0b11#2) :
    HardwareAllows s o ↔ (o.done = true ↔ AllDead s.gridIn) := by
  rw [hardwareAllows_iff, resultOf_of_reserved hop, Bool.eq_iff_iff, doneFlag_iff_allDead]
  exact and_iff_left nofun

/-- Settles O16: there is no result, so the model refuses, and `grid_out` is left open to the hardware. -/
theorem reservedEncodingRefused : Obligations.ReservedEncodingRefused :=
  ⟨exec_reserved3, fun _ hop => ⟨step_of_reserved hop, fun _ _ => hardwareAllows_iff_of_reserved hop⟩⟩

/-! A program of the harness (R160). -/

/-- The harness presents the reserved encoding for the one command `.word 0b11`. -/
theorem harnessInputs_instr_eq_reserved3_iff {c : HarnessCommand} {g : Grid} :
    (harnessInputs c g).instr = .reserved3 ↔ c = .word 0b11#2 := by
  cases c with
  | word op => simpa [harnessInputs, encodeOp] using decodeOp_eq_iff (op := op) (i := .reserved3)
  | advance | complement | fill r => simp [harnessInputs]

theorem resultOf_eq_none_iff {i : Instr} {s : State} : resultOf i s = none ↔ i = .reserved3 := by
  rw [← wellFormed_eq_false_iff, ← isSome_resultOf i s, Option.isSome_eq_false_iff, Option.isNone_iff_eq_none]

/-- The harness is refused exactly at the reserved encoding, whatever it holds. -/
theorem harnessStep_eq_none_iff {h : HarnessState} {c : HarnessCommand} :
    harnessStep h c = none ↔ c = .word 0b11#2 := by
  rw [harnessStep_eq, Option.map_eq_none_iff, resultOf_eq_none_iff, harnessInputs_instr_eq_reserved3_iff]

theorem harnessFrom_cons_of_none {h : HarnessState} {c : HarnessCommand} (hc : harnessStep h c = none) (n : Nat)
    (cs : List HarnessCommand) : harnessFrom n h (c :: cs) = .refused n := by
  rw [harnessFrom, hc]

theorem harnessFrom_cons_of_some {h h' : HarnessState} {c : HarnessCommand} (hc : harnessStep h c = some h') (n : Nat)
    (cs : List HarnessCommand) : harnessFrom n h (c :: cs) = harnessFrom (n + 1) h' cs := by
  rw [harnessFrom, hc]

/-- With its commands numbered from `n`, a program is refused at number `k` exactly when command number
`k` is its first reserved encoding. -/
theorem harnessFrom_eq_refused_iff {n k : Nat} {h : HarnessState} {cs : List HarnessCommand} :
    harnessFrom n h cs = .refused k ↔
      n ≤ k ∧ cs[k - n]? = some (.word 0b11#2) ∧ HarnessCommand.word 0b11#2 ∉ cs.take (k - n) := by
  induction cs generalizing n h with
  | nil => simp [harnessFrom]
  | cons c cs ih =>
    cases hc : harnessStep h c with
    | none =>
      obtain rfl := harnessStep_eq_none_iff.mp hc
      rw [harnessFrom_cons_of_none hc, HarnessEnd.refused.injEq]
      rcases Nat.lt_or_ge n k with hlt | hge
      · have hsub : k - n = k - (n + 1) + 1 := by omega
        simp [hsub, hlt.ne]
      · simp [Nat.sub_eq_zero_of_le hge, Nat.le_antisymm_iff, hge]
    | some h' =>
      have hne : c ≠ .word 0b11#2 := (harnessStep_eq_none_iff (h := h)).not.mp (by simp [hc])
      rw [harnessFrom_cons_of_some hc, ih]
      rcases Nat.lt_or_ge n k with hlt | hge
      · have hsub : k - n = k - (n + 1) + 1 := by omega
        simp [hsub, hne.symm, hlt, hlt.le]
      · simp [Nat.sub_eq_zero_of_le hge, hne, hge]

/-- Settles O38, by induction on the program: the harness stops at the reserved encoding alone, and counts from 1. -/
theorem harnessRefusesAtFirstReserved : Obligations.HarnessRefusesAtFirstReserved := fun _ _ _ =>
  harnessFrom_eq_refused_iff

end Sys2Proof.Proofs.Exceptions
end

section
/-! SUPPORT. Proofs about the agreement of the outputs with the inputs, reset, early samples, the reference harness and
the frame of the source's host (70_reset_and_hazards.md). -/

namespace Sys2Proof.Proofs.ResetAndHazards

open Machine Laws StateRules CellMaps Encoding LifeEngine Exceptions

/-! The outputs agree with the inputs (R141, R146). -/

/-- Where a step answers, its outputs are the only ones the hardware may drive. -/
theorem hardwareAllows_iff_of_step_next {s t : State} {o : Outputs} (h : step s = .next t) :
    HardwareAllows s o ↔ o = outputsOf t := by
  obtain ⟨g, hg, rfl⟩ := step_next_iff.mp h
  exact hardwareAllows_iff_of_resultOf hg

/-- A host may issue exactly the commands a step answers. -/
theorem hostMayIssue_iff_exists_step_next {s : State} : HostMayIssue s = true ↔ ∃ t, step s = .next t := by
  rw [HostMayIssue, ← isSome_resultOf _ s, Option.isSome_iff_exists]
  constructor
  · rintro ⟨g, hg⟩
    exact ⟨_, exec_of_resultOf hg⟩
  · rintro ⟨t, ht⟩
    obtain ⟨g, hg, -⟩ := step_next_iff.mp ht
    exact ⟨g, hg⟩

/-- A step that answers the outputs already on the ports answers the state itself. -/
theorem eq_of_step_next_of_outputsOf_eq {s t : State} (h : step s = .next t) (ho : outputsOf s = outputsOf t) :
    t = s := by
  obtain ⟨g, -, rfl⟩ := step_next_iff.mp h
  have hgrid : s.gridOut = g := congrArg Outputs.gridOut ho
  have hdone : s.done = doneFlag s.gridIn := congrArg Outputs.done ho
  rw [← hgrid, ← hdone]

/-- The ports agree exactly in the fixed points of a step. -/
theorem portsAgree_iff_step_eq_self {s : State} : PortsAgree s ↔ step s = .next s := by
  constructor
  · rintro ⟨hmay, hallows⟩
    obtain ⟨t, ht⟩ := hostMayIssue_iff_exists_step_next.mp hmay
    have ho : outputsOf s = outputsOf t := (hardwareAllows_iff_of_step_next ht).mp hallows
    rwa [eq_of_step_next_of_outputsOf_eq ht ho] at ht
  · intro h
    exact ⟨hostMayIssue_iff_exists_step_next.mpr ⟨s, h⟩, (hardwareAllows_iff_of_step_next h).mpr rfl⟩

/-- Settles O33: an evaluation repeated changes nothing more (R46), so its next state is a fixed point, and the ports
agree in the fixed points. -/
theorem stepKeepsPortsAgree : Obligations.StepKeepsPortsAgree := by
  refine ⟨fun s t h => ?_, fun s => portsAgree_iff_step_eq_self⟩
  obtain ⟨-, -, -, hrepeat⟩ := repeatingChangesNothing s t h
  exact portsAgree_iff_step_eq_self.mpr hrepeat

/-! The ports at `State.reset` (R140, R142). -/

/-- The all-dead grid stays dead, and its flag is 1, so the reset state is a fixed point. -/
theorem step_reset : step State.reset = .next State.reset := rfl

/-- Settles O34: the reset state is a fixed point of the step. -/
theorem resetOutputsAgree : Obligations.ResetOutputsAgree := portsAgree_iff_step_eq_self.mpr step_reset

/-- Settles O35: each port has its value by the definition of the reset state. -/
theorem resetPortsAreTheModelsChoice : Obligations.ResetPortsAreTheModelsChoice := ⟨rfl, rfl, rfl, rfl, rfl⟩

/-! Samples in time (R145, R147). -/

section

variable {settle n : Nat} {s : State} {o : Outputs}

theorem sampleAllowsAt_of_lt (h : n < settle) : SampleAllowsAt settle n s o :=
  fun hle => absurd hle (Nat.not_le.mpr h)

/-- From the settling time on, a sample shows what the hardware drives. -/
theorem sampleAllowsAt_iff_of_le (h : settle ≤ n) : SampleAllowsAt settle n s o ↔ HardwareAllows s o :=
  ⟨fun hsample => hsample h, fun hallows _ => hallows⟩

theorem sampleAllowsAt_iff_of_step_next {t : State} (h : settle ≤ n) (ht : step s = .next t) :
    SampleAllowsAt settle n s o ↔ o = outputsOf t :=
  (sampleAllowsAt_iff_of_le h).trans (hardwareAllows_iff_of_step_next ht)

end

/-- Settles O36: an early sample is bound by nothing, a later one by what the hardware may drive. -/
theorem samplesAfterSettling : Obligations.SamplesAfterSettling := by
  refine ⟨fun _ _ _ _ => sampleAllowsAt_of_lt, fun _ _ _ _ _ => sampleAllowsAt_iff_of_step_next, ?reserved, ?tSettle⟩
  case reserved =>
    intro settle n s o hle hop
    exact (sampleAllowsAt_iff_of_le hle).trans (hardwareAllows_iff_of_reserved hop)
  case tSettle =>
    intro n s t o
    exact sampleAllowsAt_iff_of_step_next (Nat.le_add_right Config.tSettle n)

/-! One command of the harness (R160). -/

@[simp] theorem harnessInputs_gridIn (k : HarnessCommand) (g : Grid) : (harnessInputs k g).gridIn = g := by
  cases k <;> rfl

/-- The outcome of presented inputs does not depend on what the ports held before (R32). -/
theorem step_present_eq_evaluate (s : State) (c : Command) : step (s.present c) = evaluate c :=
  evaluationsAreStateless (s.present c) (State.reset.present c) rfl rfl rfl

section

variable {h : HarnessState} {k : HarnessCommand}

theorem harnessStep_of_evaluate_next {t : State} (ht : evaluate (harnessInputs k h.grid) = .next t) :
    harnessStep h k = some ⟨t.gridOut, h.dones ++ [t.done]⟩ := by
  rw [harnessStep, ht]

theorem harnessStep_of_evaluate_refused {r : Refusal} (hr : evaluate (harnessInputs k h.grid) = .refused r) :
    harnessStep h k = none := by
  rw [harnessStep, hr]

/-- A command that completes appends one value to `D`. -/
theorem length_dones_of_harnessStep {h' : HarnessState} (hk : harnessStep h k = some h') :
    h'.dones.length = h.dones.length + 1 := by
  rw [harnessStep_eq, Option.map_eq_some_iff] at hk
  obtain ⟨g, -, rfl⟩ := hk
  exact List.length_append

end

/-- Settles O37: the inputs and the word are those of the presented command, and its outcome, which no earlier output
enters, decides how the run goes on. -/
theorem harnessRunsCommands : Obligations.HarnessRunsCommands := by
  refine ⟨fun g => ⟨rfl, rfl, fun _ => rfl, fun _ => rfl⟩, fun k g => ?word, fun _ _ => rfl, fun _ _ => rfl,
    fun k h c cs s => ⟨fun t ht => ?next, fun r hr => ?refused⟩⟩
  case word =>
    have hword := toNat_packCommand (harnessInputs k g)
    rwa [harnessInputs_gridIn] at hword
  case next =>
    rw [step_present_eq_evaluate] at ht
    exact harnessFrom_cons_of_some (harnessStep_of_evaluate_next ht) k cs
  case refused =>
    rw [step_present_eq_evaluate] at hr
    exact harnessFrom_cons_of_none (harnessStep_of_evaluate_refused hr) k cs

/-! A program of the harness without the reserved encoding (R160). -/

theorem exists_harnessStep_eq_some {c : HarnessCommand} (hc : c ≠ .word 0b11#2) (h : HarnessState) :
    ∃ h', harnessStep h c = some h' :=
  Option.ne_none_iff_exists'.mp (harnessStep_eq_none_iff.not.mpr hc)

/-- Such a program has an end state, with one more value in `D` for each command, and whatever follows it runs from
there. -/
theorem exists_harnessFrom_append {cs : List HarnessCommand} (hcs : HarnessCommand.word 0b11#2 ∉ cs) (n : Nat)
    (h : HarnessState) : ∃ e : HarnessState, e.dones.length = h.dones.length + cs.length ∧
      ∀ rest, harnessFrom n h (cs ++ rest) = harnessFrom (n + cs.length) e rest := by
  induction cs generalizing n h with
  | nil => exact ⟨h, rfl, fun _ => rfl⟩
  | cons c cs ih =>
    obtain ⟨hc, hcs'⟩ := List.ne_and_not_mem_of_not_mem_cons hcs
    obtain ⟨h', hstep⟩ := exists_harnessStep_eq_some hc.symm h
    obtain ⟨e, hlength, hrun⟩ := ih hcs' (n + 1) h'
    have hone := length_dones_of_harnessStep hstep
    refine ⟨e, ?_, fun rest => ?_⟩
    · rw [List.length_cons]
      omega
    · rw [List.cons_append, harnessFrom_cons_of_some hstep, hrun, List.length_cons, Nat.add_right_comm, Nat.add_assoc]

/-- Settles O39, by induction on the program: each command completes, and the run goes on from its end state. -/
theorem harnessFinishes : Obligations.HarnessFinishes := by
  intro g program hprogram
  obtain ⟨e, hlength, hrun⟩ := exists_harnessFrom_append hprogram 1 ⟨g, []⟩
  refine ⟨e, ?finished, hlength.trans (Nat.zero_add _), fun rest => ?rest⟩
  case finished =>
    have hend := hrun []
    rwa [List.append_nil] at hend
  case rest =>
    rw [Nat.add_comm]
    exact hrun rest

/-! The grids the host stores (R154). -/

theorem hostStored_advance (g r : Grid) : hostStored ⟨.advance, g, r⟩ = advanceGrid g := hostStored_eq _
theorem hostStored_complement (g r : Grid) : hostStored ⟨.complement, g, r⟩ = ~~~g := hostStored_eq _
theorem hostStored_fill (g r : Grid) : hostStored ⟨.fill, g, r⟩ = r := hostStored_eq _

/-! A frame, action by action (R155, R157). -/

section

variable {h : HostState} {x : FrameInput}

/-- The priority chain, with R89's predicate for the flag the host reads. -/
theorem hostAction_eq : hostAction h x =
    if x.peekA = true then .reseed
    else if x.takeB = true ∧ h.debounce = 0 then .flip
    else if AllDead h.grid then .settle
    else .advance := by
  simp only [hostAction, hostDone_eq, doneFlag_iff_allDead, Bool.and_eq_true, beq_iff_eq]

/-- With neither manual action the flag of the grid decides. -/
theorem hostAction_of_not_manual (hA : x.peekA = false) (hB : ¬ (x.takeB = true ∧ h.debounce = 0)) :
    hostAction h x = if AllDead h.grid then .settle else .advance := by
  rw [hostAction_eq, if_neg (ne_true_of_eq_false hA), if_neg hB]

theorem hostFrame_of_reseed (ha : hostAction h x = .reseed) :
    hostFrame h x = ⟨x.rand, h.debounce - 1, h.settle⟩ := by
  rw [hostFrame, ha, hostAct, hostStored_fill, hostTick]

/-- The 5 to which a flip sets the debounce counter is decremented in the same frame (log entry 12). -/
theorem hostFrame_of_flip (ha : hostAction h x = .flip) : hostFrame h x = ⟨~~~h.grid, 4, h.settle⟩ := by
  rw [hostFrame, ha, hostAct, hostStored_complement, hostTick, Nat.add_one_sub_one]

/-- Below 4 the settle counter does not reach 5, and nothing is stored. -/
theorem hostFrame_of_settle_of_lt (ha : hostAction h x = .settle) (hs : h.settle < 4) :
    hostFrame h x = ⟨h.grid, h.debounce - 1, h.settle + 1⟩ := by
  rw [hostFrame, ha, hostAct, if_neg (by omega), hostTick]

/-- From 4 on the settle counter reaches 5, and the grid is reseeded (log entry 12). -/
theorem hostFrame_of_settle_of_le (ha : hostAction h x = .settle) (hs : 4 ≤ h.settle) :
    hostFrame h x = ⟨x.rand, h.debounce - 1, 0⟩ := by
  rw [hostFrame, ha, hostAct, if_pos (by omega), hostStored_fill, hostTick]

theorem hostFrame_of_advance (ha : hostAction h x = .advance) :
    hostFrame h x = ⟨advanceGrid h.grid, h.debounce - 1, 0⟩ := by
  rw [hostFrame, ha, hostAct, hostStored_advance, hostTick]

/-- The manual actions leave the settle counter (R157). -/
theorem hostFrame_settle_of_manual (ha : hostAction h x = .reseed ∨ hostAction h x = .flip) :
    (hostFrame h x).settle = h.settle := by
  rcases ha with ha | ha
  · rw [hostFrame_of_reseed ha]
  · rw [hostFrame_of_flip ha]

/-- The Settle action counts one frame more and keeps the grid, or reseeds it and starts from 0 (R155, R157). -/
theorem hostFrame_of_settle (ha : hostAction h x = .settle) :
    (hostFrame h x).settle = h.settle + 1 ∧ (hostFrame h x).grid = h.grid ∨
      (hostFrame h x).settle = 0 ∧ (hostFrame h x).grid = x.rand := by
  rcases Nat.lt_or_ge h.settle 4 with hlt | hge
  · rw [hostFrame_of_settle_of_lt ha hlt]
    exact .inl ⟨rfl, rfl⟩
  · rw [hostFrame_of_settle_of_le ha hge]
    exact .inr ⟨rfl, rfl⟩

end

/-- Settles O40: the conditions of each clause select its action, whose frame is the clause's. -/
theorem framePriorityChain : Obligations.FramePriorityChain := by
  intro h x
  refine ⟨fun hA => ?reseed, fun hA hB hdeb => ?flip, fun hA hB hdead hs => ?settle, fun hA hB hdead hs => ?settled,
    fun hA hB hlive => ?advance⟩
  case reseed => exact hostFrame_of_reseed (by rw [hostAction_eq, if_pos hA])
  case flip =>
    exact hostFrame_of_flip (by rw [hostAction_eq, if_neg (ne_true_of_eq_false hA), if_pos ⟨hB, hdeb⟩])
  case settle => exact hostFrame_of_settle_of_lt (by rw [hostAction_of_not_manual hA hB, if_pos hdead]) hs
  case settled => exact hostFrame_of_settle_of_le (by rw [hostAction_of_not_manual hA hB, if_pos hdead]) hs
  case advance =>
    exact ⟨_, nextGeneration_iff.mpr rfl,
      hostFrame_of_advance (by rw [hostAction_of_not_manual hA hB, if_neg hlive])⟩

/-- Settles O41: the counter after each of the four actions, so a frame that ends with it 0 and did not begin so was
Advance, or Settle with the reseed. -/
theorem settleCounter : Obligations.SettleCounter := by
  intro h x
  refine ⟨hostFrame_settle_of_manual, fun ha => ?advance, hostFrame_of_settle, fun hzero => ?zero⟩
  case advance => rw [hostFrame_of_advance ha]
  case zero =>
    cases ha : hostAction h x with
    | reseed => exact .inl ((hostFrame_settle_of_manual (.inl ha)).symm.trans hzero)
    | flip => exact .inl ((hostFrame_settle_of_manual (.inr ha)).symm.trans hzero)
    | advance => exact .inr (.inl rfl)
    | settle =>
      rcases hostFrame_of_settle ha with ⟨hsucc, -⟩ | ⟨-, hgrid⟩
      · exact absurd (hsucc.symm.trans hzero) (Nat.succ_ne_zero _)
      · exact .inr (.inr ⟨rfl, hgrid⟩)

end Sys2Proof.Proofs.ResetAndHazards
end
